-- ==== Sys2Proof/Word.lean ====
section
/-!
DEFINITION. The word types of the Page Codec Unit (PCU). A cell of SEGTAB, DATA and FB is a byte
(rule R41); registers are 8, 17, 32 or 64 bits wide (rule R20). Every length and every index is a
natural number (rules R36, R85), reached from a register by `BitVec.toNat`.
-/

namespace Sys2Proof

/-- One byte, the addressable unit of SEGTAB, DATA and FB (rule R41). -/
abbrev Byte := BitVec 8

/-- A payload length, offset or count of up to 65025 bytes: DLEN, OFF, LEN (rules R19, R31). -/
abbrev Word17 := BitVec 17

/-- A 32-bit register: ARG, RES, STREAM_ID, PACKET_INDEX, CHECKSUM, FLEN, POS (rule R20). -/
abbrev Word32 := BitVec 32

/-- A 64-bit register: GRANULE (rule R14). Also the widest value a host access carries. -/
abbrev Word64 := BitVec 64

end Sys2Proof
end

