-- ==== Sys2Proof/Config.lean ====
section
/-!
DEFINITION. What is fixed for one PCU and does not change while it runs: the constants of rule R7, the
parameters of rule R8 with the values the spec takes, the parameters the spec leaves OPEN, and the
free values. A free value and an OPEN parameter are opaque constants: no proof can see what they are.
-/

namespace Sys2Proof

/-- The three page types of the TYPE register (rule R13). The fourth code of its two bits is not legal
and the register never holds it, so it has no constructor. -/
inductive PageType where
  | continuation
  | beginOfStream
  | endOfStream
deriving DecidableEq, Repr, Inhabited

/-- The order of the bytes of a multi-byte header field on the wire (rules R8, R42). -/
inductive ByteOrder where
  | little
  | big
deriving DecidableEq, Repr, Inhabited

/-- The four memories; there is no flat address space (rule R40). -/
inductive Space where
  | segtab
  | data
  | fb
  | subseg
deriving DecidableEq, Repr, Inhabited

/-- One descriptor of SUBSEG: the sub-segment is `DATA[off .. off + len)` (rule R31). -/
structure SubSeg where
  off : Word17
  len : Word17
deriving DecidableEq, Repr, Inhabited

/-- What the host writer's `bytes_written` counts (rule R8, `BYTES_WRITTEN_COUNTS`). -/
inductive BytesWrittenCounts where
  | payload
  | serialized
deriving DecidableEq, Repr, Inhabited

/-- The parameters of rule R8, each a named configuration field that the model takes as an argument.
`STREAM_PORT` is not modelled (rule R65). -/
structure Params where
  /-- `MAGIC`, the capture pattern, compared byte by byte. -/
  magic : List Byte
  /-- `BYTE_ORDER`. -/
  byteOrder : ByteOrder
  /-- `CRC_POLY`, the generator polynomial with the x^32 term implicit. -/
  crcPoly : Word32
  /-- `CRC_INIT`. -/
  crcInit : Word32
  /-- `CRC_REFLECT`. -/
  crcReflect : Bool
  /-- `CRC_XOROUT`. -/
  crcXorout : Word32
  /-- `TYPE_CODE(Continuation)`. -/
  codeContinuation : Byte
  /-- `TYPE_CODE(BeginOfStream)`. -/
  codeBeginOfStream : Byte
  /-- `TYPE_CODE(EndOfStream)`. -/
  codeEndOfStream : Byte
  /-- `FB_SIZE`, the capacity of the frame buffer in bytes. -/
  fbSize : Nat
  /-- `REG_BASE`, where the register file sits on the host's bus. -/
  regBase : Nat
  /-- `READ_CHUNK`, the bytes the host reader asks of the source in one call. -/
  readChunk : Nat
  /-- `BYTES_WRITTEN_COUNTS`, the unit of the host writer's `bytes_written`. -/
  bytesWrittenCounts : BytesWrittenCounts
deriving DecidableEq, Repr

/-- What rules R8 and R9 fix about the parameters: a 4-byte magic, an injective `TYPE_CODE`, and the bounds of
`FB_SIZE` and `READ_CHUNK`. -/
abbrev Params.Valid (P : Params) : Prop :=
  P.magic.length = 4 ∧ P.codeContinuation ≠ P.codeBeginOfStream ∧
    P.codeContinuation ≠ P.codeEndOfStream ∧ P.codeBeginOfStream ≠ P.codeEndOfStream ∧
    65307 ≤ P.fbSize ∧ P.fbSize ≤ 4294967295 ∧ 1 ≤ P.readChunk

/-- `HDR`, bytes of fixed header before the segment table (rule R7). -/
def Config.hdr : Nat := 27

/-- `MAXSEG`, the most entries in a segment table (rule R7). -/
def Config.maxSeg : Nat := 255

/-- `MAXLACE`, the largest lacing value, which is the continuation value (rule R7). -/
def Config.maxLace : Nat := 255

/-- `MAXPAY`, the most payload bytes in a page (rule R7). -/
def Config.maxPay : Nat := 65025

/-- `MAXPAGE`, the most bytes in a serialized page (rule R7). -/
def Config.maxPage : Nat := 65307

/-- `CSUM_OFF`, the offset of the checksum field from the page start (rule R7). -/
def Config.csumOff : Nat := 22

/-- `NSEG_OFF`, the offset of the segment count from the page start (rule R7). -/
def Config.nsegOff : Nat := 26

/-- How far `FB_SIZE` lies above its least value 65307: OPEN in rule R8, so no value is given here. -/
opaque Config.fbExtra : Fin 4294901989

/-- `FB_SIZE`, the capacity of the frame buffer: at least 65307 and at most 2^32 - 1 (rule R8). -/
def Config.fbSize : Nat := Config.fbExtra.val + 65307

/-- `REG_BASE`, where the register file sits on the host's bus: OPEN (rule R8). -/
opaque Config.regBase : Nat

/-- One less than `READ_CHUNK`, which is at least 1: OPEN (rule R8). -/
opaque Config.readChunkLessOne : Nat

/-- `READ_CHUNK`, the bytes the host reader asks of the source in one call (rules R8, R137). -/
def Config.readChunk : Nat := Config.readChunkLessOne + 1

/-- `BYTES_WRITTEN_COUNTS`: OPEN (rules R8, R140). -/
opaque Config.bytesWrittenCounts : BytesWrittenCounts

/-- The machine's parameters: the values the spec takes where it takes one, and the opaque constants where rule
R8 says OPEN (decisions D3 to D7, D22, D33, D35). -/
def Config.params : Params where
  magic := [0x4F#8, 0x67#8, 0x67#8, 0x53#8]
  byteOrder := .little
  crcPoly := 0x04C11DB7#32
  crcInit := 0x00000000#32
  crcReflect := false
  crcXorout := 0x00000000#32
  codeContinuation := 0x01#8
  codeBeginOfStream := 0x02#8
  codeEndOfStream := 0x04#8
  fbSize := Config.fbSize
  regBase := Config.regBase
  readChunk := Config.readChunk
  bytesWrittenCounts := Config.bytesWrittenCounts

/-- FREE VALUE. What the block answers to the `n`-th host read that the spec leaves unspecified: a read of
CMD (U7) or of a cell outside its memory's valid range (rule R52, U8). -/
opaque Config.unspecifiedRead : Nat → Word64

/-- FREE VALUE. What a cell of a byte memory holds after power-on, before anything is written to it: the
one definition of what an unlisted cell reads as (rule R34: "unspecified after reset"). -/
opaque Config.powerOnByte : Space → Nat → Byte

/-- FREE VALUE. The same for a descriptor of SUBSEG (rule R34). -/
opaque Config.powerOnSub : Nat → SubSeg

end Sys2Proof
end

