-- ==== Sys2Proof/Syntax.lean ====
section
/-!
DEFINITION. The operations of the PCU: one constructor for each of the fifteen rows of
spec/opcode_table.json (rule R66). An operation's only operand outside the registers is the byte string
`W` of WRITE and FB_APPEND (rule R65).
-/

namespace Sys2Proof

/-- The fifteen operations (rule R66), in the order of their command codes. -/
inductive Instr where
  /-- `0x01` NEW, rule R81. -/
  | new
  /-- `0x02` CLEAR, rule R82. -/
  | clear
  /-- `0x03` WRITE with the byte string `w`, rule R83. -/
  | write (w : List Byte)
  /-- `0x04` GET_SEGMENTS, rule R90. -/
  | getSegments
  /-- `0x05` LACE, rule R94. -/
  | lace
  /-- `0x06` GET_CHECKSUM, rule R103. -/
  | getChecksum
  /-- `0x07` FILL_CHECKSUM, rule R104. -/
  | fillChecksum
  /-- `0x08` GET_LENGTH, rule R111. -/
  | getLength
  /-- `0x09` PARSE, rule R112. -/
  | parse
  /-- `0x0A` SERIALIZE, rule R113. -/
  | serialize
  /-- `0x0B` FB_RESET, rule R114. -/
  | fbReset
  /-- `0x0C` FB_APPEND with the byte string `w`, rule R115. -/
  | fbAppend (w : List Byte)
  /-- `0x0D` FB_COMPACT, rule R116. -/
  | fbCompact
  /-- `0x0E` CLR_ERR, rule R167. -/
  | clrErr
  /-- `0x0F` RESET, rule R181. -/
  | reset
deriving DecidableEq, Repr

end Sys2Proof
end

