-- ==== Sys2Proof/WellFormed.lean ====
section
/-!
DEFINITION. Which operations and which host accesses are well-formed. The block's only operand outside
its registers is a byte string of any length `len(W) >= 0` (rules R65, R85), so every operation is
well-formed; the checks of this file are those on what a host may address (rules R20, R40, U6).
-/

namespace Sys2Proof

/-- Every operation is well-formed: `W` may have any length, and there is no other operand field. -/
def Instr.wellFormed : Instr → Bool
  | .new | .clear | .getSegments | .lace | .getChecksum | .fillChecksum | .getLength | .parse
  | .serialize | .fbReset | .fbCompact | .clrErr | .reset => true
  | .write _ | .fbAppend _ => true

/-- A register number of rule R20: 0 to 16. Above it an access has no meaning (U6). -/
def registerIndexOk (i : Nat) : Bool := decide (i ≤ 16)

/-- How many cells a memory has (rule R40). -/
def Space.size (P : Params) : Space → Nat
  | .segtab => Config.maxSeg
  | .data => Config.maxPay
  | .fb => P.fbSize
  | .subseg => 255

/-- An index inside a memory's index range (rule R40). Outside it an access has no meaning (U6). -/
def cellIndexOk (P : Params) (sp : Space) (i : Nat) : Bool := decide (i < sp.size P)

/-- The one memory the host may write a cell of (rules R28 to R31). -/
def hostWritable : Space → Bool
  | .segtab => true
  | .data => false
  | .fb => false
  | .subseg => false

end Sys2Proof
end

