-- ==== Sys2Proof/Decode.lean ====
section
/-!
DEFINITION. The command encoding (rules R65 to R67). A command is one transaction: an 8-bit code written
to CMD, and with WRITE and FB_APPEND a byte string `W` of any length transported with it. A transaction
is a list of bytes, the code first. The decoder is total and rejects by name; the encoder is written
from the same table.
-/

namespace Sys2Proof

/-- Why the decoder rejects a transaction. -/
inductive DecodeError where
  /-- No code at all: not a transaction. -/
  | noCode
  /-- A code that selects no operation: `0x00` and `0x10` to `0xFF` (rule R67). -/
  | illegalCode (code : Byte)
  /-- A byte string given to an operation that takes none (rule R65). -/
  | operandNotTaken (code : Byte)
deriving DecidableEq, Repr

/-- The operations that take a byte string `W`: WRITE `0x03` and FB_APPEND `0x0C` (rule R65). -/
def takesOperand (code : Byte) : Bool := code.toNat == 0x03 || code.toNat == 0x0C

/-- The operation that a code selects, given the byte string, or none for an illegal code (rules R66, R67). -/
def operationOf (code : Byte) (w : List Byte) : Option Instr :=
  match code.toNat with
  | 0x01 => some .new
  | 0x02 => some .clear
  | 0x03 => some (.write w)
  | 0x04 => some .getSegments
  | 0x05 => some .lace
  | 0x06 => some .getChecksum
  | 0x07 => some .fillChecksum
  | 0x08 => some .getLength
  | 0x09 => some .parse
  | 0x0A => some .serialize
  | 0x0B => some .fbReset
  | 0x0C => some (.fbAppend w)
  | 0x0D => some .fbCompact
  | 0x0E => some .clrErr
  | 0x0F => some .reset
  | _ => none

/-- The instruction that a transaction stands for (rules R65 to R67). -/
def decode : List Byte → Except DecodeError Instr
  | [] => .error .noCode
  | code :: w =>
    match operationOf code w with
    | none => .error (.illegalCode code)
    | some i => if takesOperand code || w.isEmpty then .ok i else .error (.operandNotTaken code)

/-- The command code of an operation (rule R66). -/
def opcode : Instr → Byte
  | .new => 0x01#8
  | .clear => 0x02#8
  | .write _ => 0x03#8
  | .getSegments => 0x04#8
  | .lace => 0x05#8
  | .getChecksum => 0x06#8
  | .fillChecksum => 0x07#8
  | .getLength => 0x08#8
  | .parse => 0x09#8
  | .serialize => 0x0A#8
  | .fbReset => 0x0B#8
  | .fbAppend _ => 0x0C#8
  | .fbCompact => 0x0D#8
  | .clrErr => 0x0E#8
  | .reset => 0x0F#8

/-- The byte string of an operation, empty for the thirteen that take none (rule R65). -/
def operandBytes : Instr → List Byte
  | .write w => w
  | .fbAppend w => w
  | .new | .clear | .getSegments | .lace | .getChecksum | .fillChecksum | .getLength | .parse
  | .serialize | .fbReset | .fbCompact | .clrErr | .reset => []

/-- The transaction of an operation: its code, then its byte string (rule R65). -/
def encode (i : Instr) : List Byte := opcode i :: operandBytes i

/-- The transaction the host's write of `code` to CMD makes: the byte string belongs to it only where the
operation takes one (rule R80: "with W, if the operation takes one"). -/
def transaction (code : Byte) (w : List Byte) : List Byte :=
  code :: (if takesOperand code then w else [])

/-- The bytes of a command word of `n` bytes, bits 7:0 (the code) first. -/
def wordBytes : Nat → Nat → List Byte
  | 0, _ => []
  | n + 1, w => BitVec.ofNat 8 w :: wordBytes n (w / 256)

/-- The instruction read from an opcode-table word of `nbits` bits: every row of the table is the 8 bits of
its code, so the byte string of WRITE and FB_APPEND, which has no bits in the table, is empty. -/
def decodeTableWord (nbits w : Nat) : Option Instr :=
  match decode (wordBytes ((nbits + 7) / 8) w) with
  | .ok i => some i
  | .error _ => none

end Sys2Proof
end

