-- ==== Sys2Proof/Machine/State.lean ====
section
/-!
DEFINITION. The state of the block (rules R11 to R37), as plain data, the reasons a step can stop, and
the state after reset. VERSION is hardwired to 0 and CMD holds nothing, so neither has storage: both are
in the operations that read and write registers (Machine/Access.lean). The last three fields are the
model's own: they stand for the host, the block's one other agent (rule R10), and for the free values.
-/

namespace Sys2Proof.Machine

/-- The registers by name (rule R20). GRANULE is one 64-bit register with two indices. -/
inductive Reg where
  | cmd | arg | res | err | status | version | type | granule | streamId | packetIndex | checksum
  | nseg | dlen | flen | pos | nsub
deriving DecidableEq, Repr

/-- The error kinds (rule R160). Kinds 5 and 6 are the host software's and never enter ERR. -/
inductive ErrKind where
  /-- Raised by PARSE: bad magic, non-zero version, undecodable type-flags byte. -/
  | malformedHeader
  /-- Raised by PARSE: the recomputed CRC differs from the stored field. -/
  | checksumMismatch
  /-- Raised by PARSE, GET_CHECKSUM, FILL_CHECKSUM, and the host reader. -/
  | truncated
  /-- Raised by LACE and SERIALIZE. -/
  | capacityExceeded
  /-- Raised by the host writer only. -/
  | sinkFailure
  /-- Raised by the host reader only. -/
  | sourceFailure
  /-- Raised by SERIALIZE and GET_SEGMENTS. -/
  | pageInvariant
  /-- Raised by a command write of a code with no operation. -/
  | illegalCommand
deriving DecidableEq, Repr

/-- One page in the source's sense, less its version, which is always 0 (rules R11, R12, R38). -/
structure Page where
  pageType : PageType
  granule : Word64
  streamId : Word32
  packetIndex : Word32
  checksum : Word32
  table : List Byte
  payload : List Byte
deriving DecidableEq, Repr

/-- What the host can do to the block: issue a command, read or write a register by its name or by its
index, read or write a cell of a memory (rules R10, R20, R21, R35, R40, R70). -/
inductive HostAccess where
  /-- Write `code` to CMD with the byte string `w` in the same transaction (rule R65). -/
  | command (code : Byte) (w : List Byte)
  /-- Write a register, whole, by name (rule R20). -/
  | writeReg (r : Reg) (v : Word64)
  /-- Read a register, whole, by name (rule R20). -/
  | readReg (r : Reg)
  /-- Write the 32-bit register slot of an index, 7 and 8 being the halves of GRANULE (rule R20). -/
  | writeIndex (i : Nat) (v : Word32)
  /-- Read the 32-bit register slot of an index (rule R20). -/
  | readIndex (i : Nat)
  /-- Write one cell of a memory (rule R40). -/
  | writeCell (sp : Space) (i : Nat) (v : Byte)
  /-- Read one cell of a memory (rule R40). -/
  | readCell (sp : Space) (i : Nat)
deriving DecidableEq, Repr

/-- What the block answers to a host read. -/
inductive ReadData where
  /-- A register or a byte cell, zero-extended (rules R20, R87). -/
  | value (v : Word64)
  /-- A descriptor of SUBSEG (rule R31). -/
  | descriptor (d : SubSeg)
deriving DecidableEq, Repr

/-- The block has no fault: every access of an operation is inside its memory's valid range (rule R87), and
an error is recorded in ERR, after which the machine goes on (rule R163). Nobody raises one; no
constructor, so nothing about it is safe or unsafe. -/
inductive Fault where
deriving DecidableEq, Repr

/-- Why a step can be refused. -/
inductive Refusal where
  /-- An operation with no meaning yet, raised by exec's arms only. Safe: nothing is claimed of it. -/
  | notModelled (mnemonic : String)
  /-- A host access to a register index above 16 (U6: `refuse`). Raised by the register accesses by index.
  Safe: the step stops. -/
  | noSuchRegister (index : Nat)
  /-- A host access to a memory at an index outside its index range (rule R52, U6: `refuse`). Raised by the
  cell accesses. Safe: the step stops. -/
  | noSuchCell (sp : Space) (index : Nat)
  /-- A host write to a cell of DATA, FB or SUBSEG, which are host read only (rules R29 to R31) and for which
  the spec gives a write no effect. Raised by the cell writes. Safe: the step stops. -/
  | readOnlyCell (sp : Space) (index : Nat)
deriving DecidableEq, Repr

/-- The architectural state of the block (rule R11) and, last, the model's own three fields. -/
structure State where
  /-- TYPE, 2 bits: the three legal values (rule R13). -/
  pageType : PageType
  /-- GRANULE (rule R14). -/
  granule : Word64
  /-- STREAM_ID (rule R15). -/
  streamId : Word32
  /-- PACKET_INDEX (rule R16). -/
  packetIndex : Word32
  /-- CHECKSUM (rule R17). -/
  checksum : Word32
  /-- NSEG, the number of valid entries of SEGTAB (rule R19). -/
  nseg : Byte
  /-- DLEN, the number of valid bytes of DATA (rule R19). -/
  dlen : Word17
  /-- SEGTAB, the cells written since power-on (rule R28). -/
  segtab : List Host.Cell
  /-- DATA, the cells written since power-on (rule R29). -/
  data : List Host.Cell
  /-- FB, the cells written since power-on (rule R30). -/
  fb : List Host.Cell
  /-- FLEN, the number of valid bytes of FB (rule R26). -/
  flen : Word32
  /-- POS, the parse cursor (rule R18). -/
  pos : Word32
  /-- SUBSEG, the descriptors written since power-on (rule R31). -/
  subseg : List (Nat × SubSeg)
  /-- NSUB, the number of valid descriptors (rule R27). -/
  nsub : Byte
  /-- ARG (rule R22). -/
  arg : Word32
  /-- RES (rule R23). -/
  res : Word32
  /-- ERR, 4 bits (rule R24). -/
  err : BitVec 4
  /-- STATUS, 2 bits: LENV is bit 0, OPEN is bit 1 (rule R25). -/
  status : BitVec 2
  /-- MODEL'S OWN: the accesses the host has issued and the block has not served, oldest first (rule R48). -/
  accesses : List HostAccess
  /-- MODEL'S OWN: what the block answered to the host's last read, if there was one. -/
  hostData : Option ReadData
  /-- MODEL'S OWN: how many unspecified reads have been answered, the argument of the next free value. -/
  freeReads : Nat
deriving DecidableEq, Repr

/-- The outcome of an operation or of a host access. -/
abbrev Result := Host.Outcome State Fault Refusal

/-- The block after power-on: every register 0, no cell written, no access issued (rules R34, R181). -/
def State.reset : State where
  pageType := .continuation
  granule := 0
  streamId := 0
  packetIndex := 0
  checksum := 0
  nseg := 0
  dlen := 0
  segtab := []
  data := []
  fb := []
  flen := 0
  pos := 0
  subseg := []
  nsub := 0
  arg := 0
  res := 0
  err := 0
  status := 0
  accesses := []
  hostData := none
  freeReads := 0

end Sys2Proof.Machine
end

