-- ==== Sys2Proof/Machine/Ops.lean ====
section
/-!
DEFINITION. The shared operations over the memories and the registers: reading and writing cells, the
error entry (the block's only exception), its clearing, and the gate of the sticky error.
-/

namespace Sys2Proof.Machine

/-! ### Memories (rules R28 to R31, R40, R41) -/

/-- The canonical form of a memory: its addresses strictly rising. An unlisted address has not been
written since power-on, and no entry says that, so no entry is superfluous. -/
abbrev Memory.wf {α : Type} (m : List (Nat × α)) : Prop := m.Pairwise (fun a b => a.1 < b.1)

/-- What has been written at an address, if anything has. -/
def entryAt {α : Type} : List (Nat × α) → Nat → Option α
  | [], _ => none
  | (k, v) :: rest, a => if k = a then some v else entryAt rest a

/-- The entries of a string placed at `base`, first element first. -/
def entriesFrom {α : Type} (base : Nat) : List α → List (Nat × α)
  | [] => []
  | v :: vs => (base, v) :: entriesFrom (base + 1) vs

/-- `MemWrite(m, base, len(vs), vs)` of rule R36: the string replaces what stood at its addresses. -/
def writeEntries {α : Type} (m : List (Nat × α)) (base : Nat) (vs : List α) : List (Nat × α) :=
  m.filter (fun c => decide (c.1 < base)) ++ entriesFrom base vs ++
    m.filter (fun c => decide (base + vs.length ≤ c.1))

/-- One byte of a byte memory; what nothing has written is the free power-on content (rule R34). -/
def readByte (sp : Space) (m : List Host.Cell) (a : Nat) : Byte :=
  (entryAt m a).getD (Config.powerOnByte sp a)

/-- `MemRead(m, a, n)` of rule R36: `n` bytes from index `a`, first byte first. -/
def readBytes (sp : Space) (m : List Host.Cell) (a n : Nat) : List Byte :=
  (List.range n).map fun i => readByte sp m (a + i)

/-- One descriptor of SUBSEG. -/
def readSub (m : List (Nat × SubSeg)) (k : Nat) : SubSeg :=
  (entryAt m k).getD (Config.powerOnSub k)

/-- `SEGTAB[0 .. NSEG)`, the segment table of the current page (rule R28). -/
def State.table (s : State) : List Byte := readBytes .segtab s.segtab 0 s.nseg.toNat

/-- `DATA[0 .. DLEN)`, the payload of the current page (rule R29). -/
def State.payload (s : State) : List Byte := readBytes .data s.data 0 s.dlen.toNat

/-- `FB[a]` (rule R30). -/
def State.fbByte (s : State) (a : Nat) : Byte := readByte .fb s.fb a

/-- `MemRead(FB, a, n)` (rules R30, R36). -/
def State.fbBytes (s : State) (a n : Nat) : List Byte := readBytes .fb s.fb a n

/-- The sub-segments listed by the last GET_SEGMENTS: `SUBSEG[0 .. NSUB)` (rules R27, R31). -/
def State.subSegs (s : State) : List SubSeg := (List.range s.nsub.toNat).map (readSub s.subseg)

/-- The bytes a descriptor names, `DATA[OFF .. OFF + LEN)` (rules R31, R90). -/
def State.segmentBytes (s : State) (d : SubSeg) : List Byte :=
  readBytes .data s.data d.off.toNat d.len.toNat

/-- How many bytes are available from index `p` of FB: `FLEN - p` (rule R110). -/
def State.avail (s : State) (p : Nat) : Nat := s.flen.toNat - p

/-- VERSION, hardwired to 0 (rule R12). -/
def State.version (_ : State) : Byte := 0

/-- The page the block holds (rule R11). -/
def State.page (s : State) : Page where
  pageType := s.pageType
  granule := s.granule
  streamId := s.streamId
  packetIndex := s.packetIndex
  checksum := s.checksum
  table := s.table
  payload := s.payload

/-! ### Errors: entry, clearing and the gate (rules R160 to R167) -/

/-- The code ERR takes for an error kind (rule R160). -/
def ErrKind.code : ErrKind → BitVec 4
  | .malformedHeader => 1
  | .checksumMismatch => 2
  | .truncated => 3
  | .capacityExceeded => 4
  | .sinkFailure => 5
  | .sourceFailure => 6
  | .pageInvariant => 7
  | .illegalCommand => 8

/-- TAKING AN EXCEPTION, `raise E`: ERR takes the kind's code and nothing else changes; there is no
handler, no vector and no mode (rules R163, R164). -/
def raise (k : ErrKind) (s : State) : State := { s with err := k.code }

/-- The return from an error: ERR becomes 0 and nothing else changes (rule R167). -/
def clearError (s : State) : State := { s with err := 0 }

/-- The frame every operation but CLR_ERR and RESET runs in: while ERR is not 0 the operation is ignored
and nothing changes, else its effect is one atomic step (rules R80, R165). -/
def gated (effect : State → State) (s : State) : Result :=
  .next (if s.err = 0 then effect s else s)

/-- Run the effect that a check found, or raise the kind of the first check that failed (rules R80, R166). -/
def checked {α : Type} (check : Except ErrKind α) (commit : α → State → State) (s : State) : State :=
  match check with
  | .error k => raise k s
  | .ok a => commit a s

end Sys2Proof.Machine
end

