-- ==== Sys2Proof/Machine/Crc.lean ====
section
/-!
DEFINITION. The CRC-32 checker: `crc_step`, `crc32`, `page_crc` (rules R99 to R102). The polynomial, the
start value, the bit order and the final xor are parameters (rule R8). The running value is not state
(rule R33).
-/

namespace Sys2Proof.Machine

/-- One of the eight rounds of `crc_step`: shift left by one, and xor the polynomial where bit 31 was 1
(rule R100). -/
def crcBit (poly c : Word32) : Word32 := if c.msb then (c <<< 1) ^^^ poly else c <<< 1

/-- `crc_step(c, b)`: the byte enters at the top, then eight rounds (rule R100). -/
def crcStep (poly c : Word32) (b : Byte) : Word32 :=
  (crcBit poly)^[8] (c ^^^ (b.setWidth 32 <<< 24))

/-- The byte as the CRC takes it: as it is, or bit-reversed where `CRC_REFLECT` is true (rule R8; the meaning
of true is PRESUMED, log entry 12). -/
def crcByteIn (P : Params) (b : Byte) : Byte := if P.crcReflect then b.reverse else b

/-- The register as the CRC gives it out, likewise. -/
def crcWordOut (P : Params) (c : Word32) : Word32 := if P.crcReflect then c.reverse else c

/-- `crc32(s)` (rule R101). -/
def crc32 (P : Params) (s : List Byte) : Word32 :=
  crcWordOut P (s.foldl (fun c b => crcStep P.crcPoly c (crcByteIn P b)) P.crcInit) ^^^ P.crcXorout

/-- A page's bytes with the four bytes of the checksum field, at offsets 22 to 25, taken as zero
(rule R102). -/
def zeroChecksum (s : List Byte) : List Byte := s.take 22 ++ [0, 0, 0, 0] ++ s.drop 26

/-- `page_crc(p, N)`: the checksum of the `n`-byte page at index `p` of the frame buffer; the buffer is not
changed (rule R102). -/
def pageCrc (P : Params) (fb : List Host.Cell) (p n : Nat) : Word32 :=
  crc32 P (zeroChecksum (readBytes .fb fb p n))

end Sys2Proof.Machine
end

