-- ==== Sys2Proof/Machine/Flags.lean ====
section
/-!
DEFINITION. The two flags of STATUS (rule R25) and the rule that a change of the page drops the
sub-segment list (rule R27). No operation reads a flag; only the host does.
-/

namespace Sys2Proof.Machine

/-- STATUS.LENV, bit 0 (rule R25). -/
def State.lenv (s : State) : Bool := s.status.getLsbD 0

/-- STATUS.OPEN, bit 1 (rule R25). -/
def State.openRun (s : State) : Bool := s.status.getLsbD 1

/-- `STATUS.LENV <- b`; OPEN keeps its value. -/
def setLenv (b : Bool) (s : State) : State :=
  { s with status := (s.status &&& 0b10#2) ||| (if b then 0b01#2 else 0b00#2) }

/-- `STATUS.OPEN <- b`; LENV keeps its value. -/
def setOpen (b : Bool) (s : State) : State :=
  { s with status := (s.status &&& 0b01#2) ||| (if b then 0b10#2 else 0b00#2) }

/-- `NSUB <- 0 ; STATUS.OPEN <- 0`: what every change of SEGTAB, NSEG, DATA or DLEN does, so that
descriptors of an older page are never taken for the current one (rule R27). -/
def dropSubSegs (s : State) : State := setOpen false { s with nsub := 0 }

end Sys2Proof.Machine
end

