-- ==== Sys2Proof/Machine/Operands.lean ====
section
/-!
DEFINITION. The operand forms of the operations: the page at the cursor in the frame buffer, its fields
and its extent (rules R61 to R64, R110), the fields of the held page laid out as bytes, the type-flags
byte, and the sum of a segment table (rules R85, R96). The parameters of rule R8 are an argument.
-/

namespace Sys2Proof.Machine

/-! ### Field assembly (rules R36, R42, R62) -/

/-- `le_n(s)`: byte `k` of the string is bits `8k+7 : 8k` of the value (rule R36). -/
def leValue (n : Nat) : List Byte → BitVec n
  | [] => 0
  | b :: bs => b.setWidth n ||| (leValue n bs <<< 8)

/-- `le_bytes_n(v)` for `k = n / 8` bytes, the inverse of `le_n` (rule R36). -/
def leBytes {n : Nat} : Nat → BitVec n → List Byte
  | 0, _ => []
  | k + 1, v => v.setWidth 8 :: leBytes k (v >>> 8)

/-- `fld_n(s)`, in the order of `BYTE_ORDER` (rules R36, R42). -/
def fld (P : Params) (n : Nat) (s : List Byte) : BitVec n :=
  match P.byteOrder with
  | .little => leValue n s
  | .big => leValue n s.reverse

/-- `fld_bytes_n(v)`, in the order of `BYTE_ORDER` (rules R36, R42). -/
def fldBytes (P : Params) {n : Nat} (v : BitVec n) : List Byte :=
  match P.byteOrder with
  | .little => leBytes (n / 8) v
  | .big => (leBytes (n / 8) v).reverse

/-! ### The type-flags byte (rule R63) -/

/-- `TYPE_CODE` (rules R8, R63). -/
def typeCode (P : Params) : PageType → Byte
  | .continuation => P.codeContinuation
  | .beginOfStream => P.codeBeginOfStream
  | .endOfStream => P.codeEndOfStream

/-- `type_decode`, none for an undecodable byte (rule R63). -/
def typeDecode (P : Params) (b : Byte) : Option PageType :=
  if b = P.codeContinuation then some .continuation
  else if b = P.codeBeginOfStream then some .beginOfStream
  else if b = P.codeEndOfStream then some .endOfStream
  else none

/-! ### Lengths (rules R64, R85, R96, R110) -/

/-- The payload length a segment table stands for: the sum of its entries as natural numbers (rule R96). -/
def sumTable (t : List Byte) : Nat := (t.map BitVec.toNat).sum

/-- What `page_extent` answers (rule R110). -/
inductive Extent where
  /-- At least `k` bytes must be available before the next stage can be read. -/
  | needMore (k : Nat)
  /-- The total length of the page. -/
  | length (n : Nat)
deriving DecidableEq, Repr

/-- `page_extent(p)`: reads the segment count and the table only (rule R110). -/
def pageExtent (s : State) (p : Nat) : Extent :=
  if s.avail p < 27 then .needMore 27
  else
    let nseg := (s.fbByte (p + 26)).toNat
    if s.avail p < 27 + nseg then .needMore (27 + nseg)
    else .length (27 + nseg + sumTable (s.fbBytes (p + 27) nseg))

/-- The length of the page at the cursor where it is wholly in the buffer, else `Truncated`: the checks that
GET_CHECKSUM and FILL_CHECKSUM share (rules R103, R104). -/
def wholePage (s : State) : Except ErrKind Nat :=
  match pageExtent s s.pos.toNat with
  | .needMore _ => .error .truncated
  | .length n => if s.avail s.pos.toNat < n then .error .truncated else .ok n

/-! ### A page in the frame buffer (rules R61, R62) -/

/-- The fields of the page at index `p`, whose segment count is `nseg` and whose type-flags byte decodes to
`t` (rule R62). -/
def pageAt (P : Params) (s : State) (p nseg : Nat) (t : PageType) : Page :=
  let table := s.fbBytes (p + 27) nseg
  { pageType := t
    granule := fld P 64 (s.fbBytes (p + 6) 8)
    streamId := fld P 32 (s.fbBytes (p + 14) 4)
    packetIndex := fld P 32 (s.fbBytes (p + 18) 4)
    checksum := fld P 32 (s.fbBytes (p + 22) 4)
    table := table
    payload := s.fbBytes (p + 27 + nseg) (sumTable table) }

/-- The total length of a page, `N = 27 + NSEG + DLEN` (rule R61). -/
def Page.length (pg : Page) : Nat := 27 + pg.table.length + pg.payload.length

/-- The bytes of a page in the order of the wire format, with a zeroed checksum field (rules R61, R113). -/
def pageBytes (P : Params) (pg : Page) : List Byte :=
  P.magic ++ [0] ++ [typeCode P pg.pageType] ++ fldBytes P pg.granule ++ fldBytes P pg.streamId ++
    fldBytes P pg.packetIndex ++ [0, 0, 0, 0] ++ [BitVec.ofNat 8 pg.table.length] ++ pg.table ++
    pg.payload

end Sys2Proof.Machine
end

