-- ==== Sys2Proof/Machine/Checksum.lean ====
section
/-!
DEFINITION. The checksum operations on the page at the cursor: GET_CHECKSUM and FILL_CHECKSUM (rules R103
and R104), over the parameters of rule R8.
-/

namespace Sys2Proof.Machine

/-- GET_CHECKSUM's write: RES takes the checksum of the `n`-byte page at the cursor (rule R103). -/
def reportChecksum (P : Params) (n : Nat) (s : State) : State :=
  { s with res := pageCrc P s.fb s.pos.toNat n }

/-- GET_CHECKSUM's effect (rule R103). -/
def opGetChecksum (P : Params) (s : State) : State := checked (wholePage s) (reportChecksum P) s

/-- `GET_CHECKSUM` under given parameters (rules R8, R103). -/
def getChecksumWith (P : Params) (s : State) : Result := gated (opGetChecksum P) s

/-- `GET_CHECKSUM` (rule R103). -/
def execGetChecksum (s : State) : Result := getChecksumWith Config.params s

/-- FILL_CHECKSUM's writes: the checksum goes to the four bytes at offset 22 of the page, and to RES
(rule R104). -/
def fillChecksum (P : Params) (n : Nat) (s : State) : State :=
  let c := pageCrc P s.fb s.pos.toNat n
  { s with
    fb := writeEntries s.fb (s.pos.toNat + 22) (fldBytes P c)
    res := c }

/-- FILL_CHECKSUM's effect (rule R104). -/
def opFillChecksum (P : Params) (s : State) : State := checked (wholePage s) (fillChecksum P) s

/-- `FILL_CHECKSUM` under given parameters (rules R8, R104). -/
def fillChecksumWith (P : Params) (s : State) : Result := gated (opFillChecksum P) s

/-- `FILL_CHECKSUM` (rule R104). -/
def execFillChecksum (s : State) : Result := fillChecksumWith Config.params s

end Sys2Proof.Machine
end

