-- ==== Sys2Proof/Machine/Codec.lean ====
section
/-!
DEFINITION. Length discovery, deserialization and serialization: GET_LENGTH, PARSE, SERIALIZE (rules R110
to R113), over the parameters of rule R8.
-/

namespace Sys2Proof.Machine

/-- GET_LENGTH's effect: it never raises and never validates (rule R111). -/
def opGetLength (s : State) : State :=
  match pageExtent s s.pos.toNat with
  | .needMore k => setLenv false { s with res := BitVec.ofNat 32 k }
  | .length n => setLenv true { s with res := BitVec.ofNat 32 n }

/-- `GET_LENGTH` (rule R111). -/
def execGetLength (s : State) : Result := gated opGetLength s

/-- PARSE's checks 1 to 7 in their order, the first that fails deciding the error, and the page they let
through (rules R68, R112, R166). -/
def parsePage (P : Params) (s : State) : Except ErrKind Page :=
  let p := s.pos.toNat
  if s.avail p < 27 then .error .truncated
  else if s.fbBytes p 4 ≠ P.magic then .error .malformedHeader
  else if s.fbByte (p + 4) ≠ 0 then .error .malformedHeader
  else
    match typeDecode P (s.fbByte (p + 5)) with
    | none => .error .malformedHeader
    | some t =>
      let nseg := (s.fbByte (p + 26)).toNat
      if s.avail p < 27 + nseg then .error .truncated
      else
        let pg := pageAt P s p nseg t
        let n := 27 + nseg + sumTable pg.table
        if s.avail p < n then .error .truncated
        else if pageCrc P s.fb p n ≠ pg.checksum then .error .checksumMismatch
        else .ok pg

/-- PARSE's writes, step 8 of rule R112: the page is loaded and the cursor moves past it. -/
def loadPage (pg : Page) (s : State) : State :=
  dropSubSegs
    { s with
      pageType := pg.pageType
      granule := pg.granule
      streamId := pg.streamId
      packetIndex := pg.packetIndex
      checksum := pg.checksum
      nseg := BitVec.ofNat 8 pg.table.length
      segtab := writeEntries s.segtab 0 pg.table
      dlen := BitVec.ofNat 17 pg.payload.length
      data := writeEntries s.data 0 pg.payload
      res := BitVec.ofNat 32 pg.length
      pos := BitVec.ofNat 32 (s.pos.toNat + pg.length) }

/-- PARSE's effect (rule R112). -/
def opParse (P : Params) (s : State) : State := checked (parsePage P s) loadPage s

/-- `PARSE` under given parameters (rules R8, R112). -/
def parseWith (P : Params) (s : State) : Result := gated (opParse P) s

/-- `PARSE` (rule R112). -/
def execParse (s : State) : Result := parseWith Config.params s

/-- SERIALIZE's two checks in their order, `PageInvariant` before `CapacityExceeded`, and the page to emit
(rules R113, R166). -/
def serializeCheck (P : Params) (s : State) : Except ErrKind Page :=
  if sumTable s.table ≠ s.dlen.toNat then .error .pageInvariant
  else if P.fbSize < s.flen.toNat + (27 + s.nseg.toNat + s.dlen.toNat) then
    .error .capacityExceeded
  else .ok s.page

/-- SERIALIZE's writes: the page's bytes at FLEN with a zeroed checksum field, then the checksum fill step
(rule R113). -/
def emitPage (P : Params) (pg : Page) (s : State) : State :=
  let b := s.flen.toNat
  let n := pg.length
  let zeroed := writeEntries s.fb b (pageBytes P pg)
  let c := pageCrc P zeroed b n
  { s with
    fb := writeEntries zeroed (b + 22) (fldBytes P c)
    flen := BitVec.ofNat 32 (b + n)
    checksum := c
    res := BitVec.ofNat 32 n }

/-- SERIALIZE's effect (rule R113). -/
def opSerialize (P : Params) (s : State) : State := checked (serializeCheck P s) (emitPage P) s

/-- `SERIALIZE` under given parameters (rules R8, R113). -/
def serializeWith (P : Params) (s : State) : Result := gated (opSerialize P) s

/-- `SERIALIZE` (rule R113). -/
def execSerialize (s : State) : Result := serializeWith Config.params s

end Sys2Proof.Machine
end

