-- ==== Sys2Proof/Machine/FrameBuffer.lean ====
section
/-!
DEFINITION. Frame buffer housekeeping: FB_RESET, FB_APPEND, FB_COMPACT (rules R114 to R116).
-/

namespace Sys2Proof.Machine

/-- FB_RESET's effect: discard the whole frame buffer (rule R114). -/
def opFbReset (s : State) : State := setLenv false { s with flen := 0, pos := 0 }

/-- `FB_RESET` (rule R114). -/
def execFbReset (s : State) : Result := gated opFbReset s

/-- The bytes that FB_APPEND accepts: `min(n, FB_SIZE - FLEN)` (rule R115). -/
def appendAccepts (P : Params) (w : List Byte) (s : State) : Nat :=
  min w.length (P.fbSize - s.flen.toNat)

/-- FB_APPEND's effect: append what fits to the frame buffer (rule R115). -/
def opFbAppend (P : Params) (w : List Byte) (s : State) : State :=
  let a := appendAccepts P w s
  { s with
    fb := writeEntries s.fb s.flen.toNat (w.take a)
    flen := BitVec.ofNat 32 (s.flen.toNat + a)
    res := BitVec.ofNat 32 a }

/-- `FB_APPEND` under given parameters (rules R8, R115). -/
def fbAppendWith (P : Params) (w : List Byte) (s : State) : Result := gated (opFbAppend P w) s

/-- `FB_APPEND` (rule R115). -/
def execFbAppend (w : List Byte) (s : State) : Result := fbAppendWith Config.params w s

/-- FB_COMPACT's effect: the bytes from the cursor on move to index 0 (rule R116). The spec moves them one by
one in ascending order, so each is read before it is written over: the string read first is the same. -/
def opFbCompact (s : State) : State :=
  let r := s.avail s.pos.toNat
  setLenv false
    { s with
      fb := writeEntries s.fb 0 (s.fbBytes s.pos.toNat r)
      flen := BitVec.ofNat 32 r
      pos := 0
      res := BitVec.ofNat 32 r }

/-- `FB_COMPACT` (rule R116). -/
def execFbCompact (s : State) : Result := gated opFbCompact s

end Sys2Proof.Machine
end

