-- ==== Sys2Proof/Machine/Lacing.lean ====
section
/-!
DEFINITION. Lacing: segment enumeration and segment-table construction, GET_SEGMENTS and LACE (rules R90
to R96).
-/

namespace Sys2Proof.Machine

/-- The loop of GET_SEGMENTS: the terminated sub-segments of a table, from `start` with `run` bytes already
counted, and the `start` and `run` left at the end (rules R90, R91). -/
def scanTable : List Byte → Nat → Nat → List SubSeg × Nat × Nat
  | [], start, run => ([], start, run)
  | v :: t, start, run =>
    if v.toNat < 255 then
      let r := scanTable t (start + (run + v.toNat)) 0
      ({ off := BitVec.ofNat 17 start, len := BitVec.ofNat 17 (run + v.toNat) } :: r.1, r.2)
    else scanTable t start (run + v.toNat)

/-- Whether a table ends in an unterminated run: its last entry is 255 (rules R90, R91). -/
def endsOpen (t : List Byte) : Bool := t.getLast? == some 255#8

/-- The sub-segments of a table, the unterminated trailing run listed last (rule R90). -/
def subSegments (t : List Byte) : List SubSeg :=
  let r := scanTable t 0 0
  if endsOpen t then
    r.1 ++ [{ off := BitVec.ofNat 17 r.2.1, len := BitVec.ofNat 17 r.2.2 }]
  else r.1

/-- GET_SEGMENTS's one check: `PageInvariant`; then the list of the table (rule R90). -/
def segmentsCheck (s : State) : Except ErrKind (List SubSeg) :=
  if sumTable s.table = s.dlen.toNat then .ok (subSegments s.table) else .error .pageInvariant

/-- GET_SEGMENTS's writes (rule R90). -/
def listSegments (l : List SubSeg) (s : State) : State :=
  setOpen (endsOpen s.table)
    { s with
      subseg := writeEntries s.subseg 0 l
      nsub := BitVec.ofNat 8 l.length
      res := BitVec.ofNat 32 l.length }

/-- GET_SEGMENTS's effect (rule R90). -/
def opGetSegments (s : State) : State := checked (segmentsCheck s) listSegments s

/-- `GET_SEGMENTS` (rule R90). -/
def execGetSegments (s : State) : Result := gated opGetSegments s

/-- `lace(L)`, none where it is not defined (rule R93). -/
def lace (l : Nat) : Option (List Byte) :=
  if l ≤ 65024 then some (List.replicate (l / 255) 255#8 ++ [BitVec.ofNat 8 (l % 255)])
  else if l = 65025 then some (List.replicate 255 255#8)
  else none

/-- LACE's one check: `CapacityExceeded` above 65025; then the table (rule R94). -/
def laceCheck (s : State) : Except ErrKind (List Byte) :=
  match lace s.arg.toNat with
  | some t => .ok t
  | none => .error .capacityExceeded

/-- LACE's writes: the whole table is replaced (rule R94). -/
def loadTable (t : List Byte) (s : State) : State :=
  dropSubSegs
    { s with
      nseg := BitVec.ofNat 8 t.length
      segtab := writeEntries s.segtab 0 t
      res := BitVec.ofNat 32 t.length }

/-- LACE's effect (rule R94). -/
def opLace (s : State) : State := checked (laceCheck s) loadTable s

/-- `LACE` (rule R94). -/
def execLace (s : State) : Result := gated opLace s

end Sys2Proof.Machine
end

