-- ==== Sys2Proof/Machine/PageBuffer.lean ====
section
/-!
DEFINITION. The page lifecycle and the capacity-bounded write: NEW, CLEAR, WRITE (rules R81 to R84).
-/

namespace Sys2Proof.Machine

/-- NEW's effect: a fresh, empty page (rule R81). -/
def opNew (s : State) : State :=
  dropSubSegs
    { s with
      pageType := .continuation, granule := 0, streamId := 0, packetIndex := 0, checksum := 0
      nseg := 0, dlen := 0 }

/-- `NEW` (rule R81). -/
def execNew (s : State) : Result := gated opNew s

/-- CLEAR's effect: table and payload empty, header fields kept (rule R82). -/
def opClear (s : State) : State := dropSubSegs { s with nseg := 0, dlen := 0 }

/-- `CLEAR` (rule R82). -/
def execClear (s : State) : Result := gated opClear s

/-- The bytes that WRITE accepts: `min(n, 65025 - DLEN)` (rule R83). -/
def writeAccepts (w : List Byte) (s : State) : Nat := min w.length (65025 - s.dlen.toNat)

/-- WRITE's effect: append what fits to the payload (rule R83). -/
def opWrite (w : List Byte) (s : State) : State :=
  let a := writeAccepts w s
  dropSubSegs
    { s with
      data := writeEntries s.data s.dlen.toNat (w.take a)
      dlen := BitVec.ofNat 17 (s.dlen.toNat + a)
      res := BitVec.ofNat 32 a }

/-- `WRITE` (rule R83). -/
def execWrite (w : List Byte) (s : State) : Result := gated (opWrite w) s

end Sys2Proof.Machine
end

