-- ==== Sys2Proof/Machine/System.lean ====
section
/-!
DEFINITION. The operations that act on the block itself: CLR_ERR, RESET (rules R88, R167, R181), and what
a command write of an illegal code does (rule R67). CLR_ERR and RESET run whatever ERR holds.
-/

namespace Sys2Proof.Machine

/-- `CLR_ERR` (rule R167). -/
def execClrErr (s : State) : Result := .next (clearError s)

/-- RESET's effect: every register 0; the cells of the memories are not written (rule R181). -/
def opReset (s : State) : State :=
  { s with
    arg := 0, res := 0, err := 0, status := 0
    pageType := .continuation, granule := 0, streamId := 0, packetIndex := 0, checksum := 0
    nseg := 0, dlen := 0, flen := 0, pos := 0, nsub := 0 }

/-- `RESET` (rule R181). -/
def execReset (s : State) : Result := .next (opReset s)

/-- A command write of a code that selects no operation: `IllegalCommand`, unless ERR is already not 0
(rules R67, R80, R165). -/
def execIllegal (s : State) : Result := gated (raise .illegalCommand) s

end Sys2Proof.Machine
end

