-- ==== Sys2Proof/Machine/Dispatch.lean ====
section
/-!
DEFINITION. Which meaning each operation has: one arm per constructor of Instr (rule R66).
-/

namespace Sys2Proof.Machine

/-- One operation, run as one atomic step (rules R45, R80). -/
def exec (i : Instr) (s : State) : Host.Outcome State Fault Refusal :=
  match i with
  | .new => Sys2Proof.Machine.execNew s
  | .clear => Sys2Proof.Machine.execClear s
  | .write w => Sys2Proof.Machine.execWrite w s
  | .getSegments => Sys2Proof.Machine.execGetSegments s
  | .lace => Sys2Proof.Machine.execLace s
  | .getChecksum => Sys2Proof.Machine.execGetChecksum s
  | .fillChecksum => Sys2Proof.Machine.execFillChecksum s
  | .getLength => Sys2Proof.Machine.execGetLength s
  | .parse => Sys2Proof.Machine.execParse s
  | .serialize => Sys2Proof.Machine.execSerialize s
  | .fbReset => Sys2Proof.Machine.execFbReset s
  | .fbAppend w => Sys2Proof.Machine.execFbAppend w s
  | .fbCompact => Sys2Proof.Machine.execFbCompact s
  | .clrErr => Sys2Proof.Machine.execClrErr s
  | .reset => Sys2Proof.Machine.execReset s

end Sys2Proof.Machine
end

