-- ==== Sys2Proof/Machine/Parametric.lean ====
section
/-!
DEFINITION. The operations under any values of the parameters of rule R8, which are inputs of a step and
not state (rule R11). exec is the case of the values the spec takes.
-/

namespace Sys2Proof.Machine

/-- What runs an operation that a command selects. -/
abbrev Executor := Instr → State → Result

/-- One operation under given parameters: five operations read one, the others are exec's (rules R8, R11). -/
def execWith (P : Params) : Executor := fun i s =>
  match i with
  | .getChecksum => getChecksumWith P s
  | .fillChecksum => fillChecksumWith P s
  | .parse => parseWith P s
  | .serialize => serializeWith P s
  | .fbAppend w => fbAppendWith P w s
  | .new => exec .new s
  | .clear => exec .clear s
  | .write w => exec (.write w) s
  | .getSegments => exec .getSegments s
  | .lace => exec .lace s
  | .getLength => exec .getLength s
  | .fbReset => exec .fbReset s
  | .fbCompact => exec .fbCompact s
  | .clrErr => exec .clrErr s
  | .reset => exec .reset s

end Sys2Proof.Machine
end

