-- ==== Sys2Proof/Machine/Access.lean ====
section
/-!
DEFINITION. What each access of the host does (rules R10, R20, R21, R27, R35, R45, R52): issuing a command,
reading and writing a register by name or by index, reading and writing a cell of a memory. Register and
memory accesses are served whether or not ERR is 0 (rule R35). What runs the operation that a command selects is
an argument, and so are the parameters of rule R8: perform takes exec and the spec's values.
-/

namespace Sys2Proof.Machine

/-- TYPE's two bits (rule R13). -/
def typeBits : PageType → BitVec 2
  | .continuation => 0
  | .beginOfStream => 1
  | .endOfStream => 2

/-- The page type of two bits; none for 3, which is not legal (rule R13). -/
def typeOfBits (b : BitVec 2) : Option PageType :=
  match b.toNat with
  | 0 => some .continuation
  | 1 => some .beginOfStream
  | 2 => some .endOfStream
  | _ => none

/-- The value of a register, its unused upper bits 0 (rule R20); none for CMD, whose read is not defined
(rule R21). -/
def regValue (r : Reg) (s : State) : Option Word64 :=
  match r with
  | .cmd => none
  | .arg => some (s.arg.setWidth 64)
  | .res => some (s.res.setWidth 64)
  | .err => some (s.err.setWidth 64)
  | .status => some (s.status.setWidth 64)
  | .version => some (s.version.setWidth 64)
  | .type => some ((typeBits s.pageType).setWidth 64)
  | .granule => some s.granule
  | .streamId => some (s.streamId.setWidth 64)
  | .packetIndex => some (s.packetIndex.setWidth 64)
  | .checksum => some (s.checksum.setWidth 64)
  | .nseg => some (s.nseg.setWidth 64)
  | .dlen => some (s.dlen.setWidth 64)
  | .flen => some (s.flen.setWidth 64)
  | .pos => some (s.pos.setWidth 64)
  | .nsub => some (s.nsub.setWidth 64)

/-- A host write of a register other than CMD; bits above the register's width are ignored, and so are the
writes of rule R35's list (rules R12, R13, R18, R20, R27, R35). -/
def writeReg (r : Reg) (v : Word64) (s : State) : State :=
  match r with
  | .cmd | .res | .err | .status | .version | .dlen | .flen | .nsub => s
  | .arg => { s with arg := v.setWidth 32 }
  | .type =>
    match typeOfBits (v.setWidth 2) with
    | some t => { s with pageType := t }
    | none => s
  | .granule => { s with granule := v }
  | .streamId => { s with streamId := v.setWidth 32 }
  | .packetIndex => { s with packetIndex := v.setWidth 32 }
  | .checksum => { s with checksum := v.setWidth 32 }
  | .nseg => dropSubSegs { s with nseg := v.setWidth 8 }
  | .pos => if (v.setWidth 32).toNat ≤ s.flen.toNat then { s with pos := v.setWidth 32 } else s

/-- A host write of one cell of SEGTAB, at any of its indices (rules R27, R28). -/
def writeSegtab (i : Nat) (v : Byte) (s : State) : State :=
  dropSubSegs { s with segtab := writeEntries s.segtab i [v] }

/-- The answer to a host read; the block's state is not touched (rule R45). -/
def answer (d : ReadData) (s : State) : State := { s with hostData := some d }

/-- The answer to a host read that the spec leaves unspecified: the next free value (rule R52, U7, U8). -/
def answerFree (shape : Word64 → ReadData) (s : State) : State :=
  { s with
    hostData := some (shape (Config.unspecifiedRead s.freeReads))
    freeReads := s.freeReads + 1 }

/-- A byte answered to a host read. -/
def byteData (b : Byte) : ReadData := .value (b.setWidth 64)

/-- A host read of a register by name (rules R20, R21). -/
def readReg (r : Reg) (s : State) : State :=
  match regValue r s with
  | some v => answer (.value v) s
  | none => answerFree (fun v => byteData (v.setWidth 8)) s

/-- The name of the register with an index of rule R20's table; 7 and 8 are both GRANULE. -/
def regOfIndex : Nat → Option Reg
  | 0 => some .cmd
  | 1 => some .arg
  | 2 => some .res
  | 3 => some .err
  | 4 => some .status
  | 5 => some .version
  | 6 => some .type
  | 7 => some .granule
  | 8 => some .granule
  | 9 => some .streamId
  | 10 => some .packetIndex
  | 11 => some .checksum
  | 12 => some .nseg
  | 13 => some .dlen
  | 14 => some .flen
  | 15 => some .pos
  | 16 => some .nsub
  | _ => none

/-- The byte address of a register index on the host's bus: `REG_BASE + 4 * i` (rule R20). -/
def regAddress (P : Params) (i : Nat) : Nat := P.regBase + 4 * i

/-- How many cells of a memory are valid (rule R40). -/
def validCells (sp : Space) (s : State) : Nat :=
  match sp with
  | .segtab => s.nseg.toNat
  | .data => s.dlen.toNat
  | .fb => s.flen.toNat
  | .subseg => s.nsub.toNat

/-- The content of a cell (rules R28 to R31). -/
def cellData (sp : Space) (i : Nat) (s : State) : ReadData :=
  match sp with
  | .segtab => byteData (readByte .segtab s.segtab i)
  | .data => byteData (readByte .data s.data i)
  | .fb => byteData (readByte .fb s.fb i)
  | .subseg => .descriptor (readSub s.subseg i)

/-- A free value in the shape of a cell: a byte, or OFF and LEN of a descriptor. -/
def freeCellData (sp : Space) (v : Word64) : ReadData :=
  match sp with
  | .segtab | .data | .fb => byteData (v.setWidth 8)
  | .subseg => .descriptor { off := v.setWidth 17, len := (v >>> 17).setWidth 17 }

/-- A host read of one cell: its content in the valid range, a free value outside it, no meaning outside the
index range (rules R40, R52, U6, U8). -/
def readCell (P : Params) (sp : Space) (i : Nat) (s : State) : Result :=
  if cellIndexOk P sp i then
    .next (if i < validCells sp s then answer (cellData sp i s) s
      else answerFree (freeCellData sp) s)
  else .refused (.noSuchCell sp i)

/-- A host write of one cell: SEGTAB only (rules R28 to R31, U6). -/
def writeCell (P : Params) (sp : Space) (i : Nat) (v : Byte) (s : State) : Result :=
  if cellIndexOk P sp i then
    if hostWritable sp then .next (writeSegtab i v s) else .refused (.readOnlyCell sp i)
  else .refused (.noSuchCell sp i)

/-- A write of a code to CMD with the byte string of the same transaction: the operation the code selects
runs to completion, or the code is illegal (rules R21, R65, R67, R80). -/
def issue (ex : Executor) (code : Byte) (w : List Byte) (s : State) : Result :=
  match decode (transaction code w) with
  | .ok i => ex i s
  | .error _ => execIllegal s

/-- A host write of a register by name: CMD issues an operation (rules R20, R21). -/
def writeNamed (ex : Executor) (r : Reg) (v : Word64) (s : State) : Result :=
  match r with
  | .cmd => issue ex (v.setWidth 8) [] s
  | .arg | .res | .err | .status | .version | .type | .granule | .streamId | .packetIndex
  | .checksum | .nseg | .dlen | .flen | .pos | .nsub => .next (writeReg r v s)

/-- A host write of the register slot of an index: 7 and 8 are the low and the high half of GRANULE, every
other slot is its register whole (rule R20, U6). -/
def writeIndexed (ex : Executor) (i : Nat) (v : Word32) (s : State) : Result :=
  match regOfIndex i with
  | none => .refused (.noSuchRegister i)
  | some .granule =>
    .next { s with granule :=
      if i = 7 then s.granule.extractLsb' 32 32 ++ v else v ++ s.granule.setWidth 32 }
  | some r => writeNamed ex r (v.setWidth 64) s

/-- A host read of the register slot of an index (rule R20, U6). -/
def readIndexed (i : Nat) (s : State) : Result :=
  match regOfIndex i with
  | none => .refused (.noSuchRegister i)
  | some .granule =>
    .next (answer (.value
      (if i = 7 then (s.granule.setWidth 32).setWidth 64
       else (s.granule.extractLsb' 32 32).setWidth 64)) s)
  | some r => .next (readReg r s)

/-- One access of the host, served whole before the next (rules R21, R45, R48). -/
def performBy (P : Params) (ex : Executor) (a : HostAccess) (s : State) : Result :=
  match a with
  | .command code w => issue ex code w s
  | .writeReg r v => writeNamed ex r v s
  | .readReg r => .next (readReg r s)
  | .writeIndex i v => writeIndexed ex i v s
  | .readIndex i => readIndexed i s
  | .writeCell sp i v => writeCell P sp i v s
  | .readCell sp i => readCell P sp i s

/-- One access of the host to the machine, whose operations are exec's. -/
def perform (a : HostAccess) (s : State) : Result := performBy Config.params exec a s

/-- One access of the host to a machine with given parameters (rules R8, R11). -/
def performWith (P : Params) (a : HostAccess) (s : State) : Result := performBy P (execWith P) a s

/-- The block's next step: it serves the oldest access the host has issued, and with none it waits (rules R48,
R181, R185). -/
def serveNext (serve : HostAccess → State → Result) (s : State) : Result :=
  match s.accesses with
  | [] => .next s
  | a :: rest => serve a { s with accesses := rest }

/-- One step of a machine with given parameters: they are inputs of the step (rules R8, R11). -/
def stepWith (P : Params) (s : State) : Result := serveNext (performWith P) s

/-- The host issues a command ahead of its other accesses, its bytes the code and then the byte string. -/
def placeCommand (bytes : List Byte) (s : State) : State :=
  match bytes with
  | [] => s
  | code :: w => { s with accesses := .command code w :: s.accesses }

end Sys2Proof.Machine
end

