-- ==== Sys2Proof/Machine/Step.lean ====
section
/-!
DEFINITION. One step of the machine, and how an opcode-table word is placed where the next step takes its
instruction. The block fetches nothing (rule R18): the next instruction is the host's next access.
-/

namespace Sys2Proof.Machine

/-- One step: the block serves the host's next access (rules R18, R48). -/
def step (s : State) : Host.Outcome State Fault Refusal := serveNext perform s

/-- `s` with a command of the given word issued as the host's next access. -/
def State.withFetchWord (s : State) (nbits w : Nat) : State :=
  placeCommand (wordBytes ((nbits + 7) / 8) w) s

end Sys2Proof.Machine
end

