-- ==== Sys2Proof/Machine/Pseudo.lean ====
section
/-!
DEFINITION. The pseudo-operations: source functions that the host runs as sequences of the block's
operations (rules R69, R117 to R119), over the parameters of rule R8. They act on the block through its
operations and register writes only.
-/

namespace Sys2Proof.Machine

/-- The block after an outcome. No operation stops (rule R87), so the other two cases never arise of one. -/
def settle (r : Result) (s : State) : State :=
  match r with
  | .next t => t
  | .fault _ => s
  | .refused _ => s

/-- The block after one operation. -/
def run (i : Instr) (s : State) : State := settle (exec i s) s

/-- The block after one operation under given parameters (rules R8, R11). -/
def runWith (P : Params) (i : Instr) (s : State) : State := settle (execWith P i s) s

/-- `SEAL`: `ARG <- DLEN ; LACE ; SERIALIZE` (rules R69, R119). -/
def sealPage (P : Params) (s : State) : State :=
  runWith P .serialize (runWith P .lace (writeReg .arg (s.dlen.setWidth 64) s))

/-- `INTO_BYTES`: `SERIALIZE ; NEW` (rules R69, R118). -/
def intoBytes (P : Params) (s : State) : State := runWith P .new (runWith P .serialize s)

/-- `VERIFY`: GET_CHECKSUM, then RES against the stored field of the page at the cursor; the block after it,
and whether they agree (rules R69, R103). The spec does not say what VERIFY answers when GET_CHECKSUM raises or
is ignored under a sticky ERR: DESIGN CHOICE, it answers false whenever ERR is not 0 after GET_CHECKSUM (log
entry 25). -/
def verifyPage (P : Params) (s : State) : State × Bool :=
  let t := runWith P .getChecksum s
  (t, t.err == 0 && t.res == fld P 32 (t.fbBytes (t.pos.toNat + 22) 4))

/-- How a run of PARSE_ALL ends (rule R117). -/
inductive ParseAllResult where
  /-- The clean end-of-data boundary: every page of the buffer, in order. -/
  | pages (l : List Page)
  /-- A PARSE raised; what was read out before is kept beside the error (`91_not_in_source.md` N14 leaves open
  whether the caller gets it). -/
  | failed (k : BitVec 4) (before : List Page)
deriving DecidableEq, Repr

/-- The loop of PARSE_ALL, with the pages read out so far. Each pass moves the cursor, so as many passes as
there are bytes suffice (rule R117). -/
def parseLoop (P : Params) : Nat → List Page → State → State × ParseAllResult
  | 0, acc, s => (s, .pages acc)
  | n + 1, acc, s =>
    if s.pos.toNat < s.flen.toNat then
      let t := runWith P .parse s
      if t.err ≠ 0 then (t, .failed t.err acc) else parseLoop P n (acc ++ [t.page]) t
    else (s, .pages acc)

/-- `PARSE_ALL`, the source's `from_cursor` (rules R69, R117). -/
def parseAll (P : Params) (s : State) : State × ParseAllResult :=
  parseLoop P (s.avail s.pos.toNat) [] s

end Sys2Proof.Machine
end

