-- ==== Sys2Proof/Machine/Reader.lean ====
section
/-!
DEFINITION. The Stream Reader: software on the host that drives a block of its own (rules R130 to R138).
Its variables are not block state (rule R130), so they are in a structure beside the block. The parameters of
rule R8 are an argument.
-/

namespace Sys2Proof.Machine

/-- What the byte source answers to one `read(READ_CHUNK)`; no byte signals exhaustion (rule R137). -/
inductive SourceAnswer where
  | bytes (chunk : List Byte)
  | failure
deriving DecidableEq, Repr

/-- The contract of the byte source: at most `READ_CHUNK` bytes a read (rule R137). -/
def SourceAnswer.ok (P : Params) : SourceAnswer → Bool
  | .bytes chunk => decide (chunk.length ≤ P.readChunk)
  | .failure => true

/-- The reader's variables and its block (rule R131). -/
structure Reader where
  /-- The reader's own block; its `FB[POS .. FLEN)` is the reader's internal buffer. -/
  block : State
  /-- The id of the most recently returned page; no value before the first (rule R131). -/
  streamId : Option Word32
  /-- Set by an EndOfStream page, never cleared (rules R131, R132). -/
  endOfStream : Bool
  /-- Set when the source is exhausted with nothing buffered (rules R131, R132). -/
  endOfInput : Bool
  /-- Bytes of the last chunk that FB_APPEND did not accept, to be submitted again (rule R151). -/
  pending : List Byte
  /-- A call has failed: the reader is terminal (rule R134). -/
  failed : Bool
deriving DecidableEq, Repr

/-- A fresh reader with a block of its own after reset (rule R131). -/
def Reader.fresh : Reader where
  block := .reset
  streamId := none
  endOfStream := false
  endOfInput := false
  pending := []
  failed := false

/-- What `get_packet` returns (rules R133, R134). -/
inductive ReadResult where
  | page (pg : Page)
  | noPacketCleanEnd
  /-- The call failed with an error kind, given by its code (rule R160). -/
  | failed (code : BitVec 4)
  /-- A call that has no meaning: after an error (U2), or with a chunk that cannot be buffered. -/
  | refused
deriving DecidableEq, Repr

/-- `is_eos()` (rule R135). -/
def Reader.isEos (r : Reader) : Bool := r.endOfStream

/-- `is_eof()` (rule R135). -/
def Reader.isEof (r : Reader) : Bool := r.endOfInput

/-- GET_LENGTH on the reader's block. -/
def Reader.askLength (P : Params) (r : Reader) : Reader := { r with block := runWith P .getLength r.block }

/-- After GET_LENGTH: whether a whole page is buffered, `LENV = 1 and FLEN - POS >= RES` (rules R111, R133). -/
def Reader.whole (r : Reader) : Bool :=
  r.block.lenv && decide (r.block.res.toNat ≤ r.block.flen.toNat - r.block.pos.toNat)

/-- FB_APPEND a chunk and keep what was not accepted (rules R133, R151). -/
def Reader.append (P : Params) (chunk : List Byte) (r : Reader) : Reader :=
  let b := runWith P (.fbAppend chunk) r.block
  { r with block := b, pending := chunk.drop b.res.toNat }

/-- A whole page is buffered: PARSE it, read it out, consume its bytes (rule R133). -/
def Reader.deliver (P : Params) (r : Reader) : ReadResult × Reader :=
  let b := runWith P .parse r.block
  if b.err ≠ 0 then (.failed b.err, { r with block := b, failed := true })
  else
    (.page b.page,
      { r with
        block := runWith P .fbCompact b
        streamId := some b.streamId
        endOfStream := r.endOfStream || decide (b.pageType = .endOfStream) })

/-- The source is exhausted: a clean end with nothing buffered, else a truncation (rule R133). -/
def Reader.exhausted (r : Reader) : ReadResult × Reader :=
  if r.block.flen.toNat - r.block.pos.toNat = 0 then
    (.noPacketCleanEnd, { r with endOfInput := true })
  else (.failed ErrKind.truncated.code, { r with failed := true })

/-- The loop of `get_packet`, over the answers the source will give; a source with no more answers is
exhausted (rules R133, R137). -/
def Reader.fetch (P : Params) : List SourceAnswer → Reader → ReadResult × Reader × List SourceAnswer
  | [], r =>
    let q := r.askLength P
    if q.whole then ((q.deliver P).1, (q.deliver P).2, []) else (q.exhausted.1, q.exhausted.2, [])
  | a :: rest, r =>
    let q := r.askLength P
    if q.whole then ((q.deliver P).1, (q.deliver P).2, a :: rest)
    else
      match a with
      | .failure => (.failed ErrKind.sourceFailure.code, { q with failed := true }, rest)
      | .bytes chunk =>
        if chunk = [] then (q.exhausted.1, q.exhausted.2, rest)
        else if q.pending = [] then Reader.fetch P rest (q.append P chunk)
        else (.refused, q, rest)

/-- `get_packet()`: the result, the reader after it, and the answers the source still holds (rules R133,
R134). -/
def Reader.getPacket (P : Params) (src : List SourceAnswer) (r : Reader) :
    ReadResult × Reader × List SourceAnswer :=
  if r.failed || decide (r.block.err ≠ 0) then (.refused, r, src)
  else if r.endOfInput then (.noPacketCleanEnd, r, src)
  else Reader.fetch P src (if r.pending = [] then r else r.append P r.pending)

/-- At most `n` calls of `get_packet`: the pages returned, the first result that is no page if there was one,
and the reader after the calls (rule R138). -/
def Reader.getPackets (P : Params) : Nat → List SourceAnswer → Reader → List Page × Option ReadResult × Reader
  | 0, _, r => ([], none, r)
  | n + 1, src, r =>
    match Reader.getPacket P src r with
    | (.page pg, r', src') =>
      let q := Reader.getPackets P n src' r'
      (pg :: q.1, q.2)
    | (res, r', _) => ([], some res, r')

end Sys2Proof.Machine
end

