-- ==== Sys2Proof/Machine/Writer.lean ====
section
/-!
DEFINITION. The Stream Writer: software on the host that drives a block of its own (rules R130, R140 to
R150). Its variables are not block state (rule R130). The byte sink and the `on_seal` callback are
collaborators of the writer and are arguments (rules R147, R149), and so are the parameters of rule R8.
-/

namespace Sys2Proof.Machine

/-- The `on_seal` callback: an arbitrary function from the payload bytes about to be sealed and its own state
to a granule position and its next state (rule R149). -/
abbrev OnSeal (σ : Type) := Nat → σ → Word64 × σ

/-- The byte sink's answers: whether its `n`-th write succeeds; it accepts the full buffer or fails atomically
(rule R147). -/
abbrev SinkAnswers := Nat → Bool

/-- The writer's variables and its block, and what the sink has accepted (rules R140, R147). -/
structure Writer (σ : Type) where
  /-- The writer's own block: the current page is its page. -/
  block : State
  /-- Fixed at construction. -/
  streamId : Word32
  /-- The index of the next page sealed. -/
  packetIndex : Word32
  /-- Caller-settable, caller-readable. -/
  granulePosition : Word64
  /-- Cumulative count across all sealed pages, in the unit of `BYTES_WRITTEN_COUNTS`. -/
  bytesWritten : Nat
  /-- Whether a first page has been sealed. -/
  firstSealed : Bool
  /-- Whether the next seal is to be marked as the end of the stream. -/
  eosMarked : Bool
  /-- The callback's own state. -/
  callbackState : σ
  /-- The byte strings the sink has accepted, oldest first. -/
  accepted : List (List Byte)
  /-- How many writes the sink has been given. -/
  sinkWrites : Nat
deriving DecidableEq, Repr

/-- A fresh writer for a stream, with a block of its own after reset (rule R140). -/
def Writer.fresh {σ : Type} (streamId : Word32) (callbackState : σ) : Writer σ where
  block := .reset
  streamId := streamId
  packetIndex := 0
  granulePosition := 0
  bytesWritten := 0
  firstSealed := false
  eosMarked := false
  callbackState := callbackState
  accepted := []
  sinkWrites := 0

/-- How a call of the writer ends. -/
inductive WriteResult where
  /-- The call succeeded with a count: `write` returns the length it was given (rule R141). What a successful
  seal returns is not stated (rules R142, R144): DESIGN CHOICE, the number of bytes of the serialized page (log
  entry 27). -/
  | done (n : Nat)
  /-- The call failed with an error kind, given by its code (rule R160). -/
  | failed (code : BitVec 4)
  /-- A seal that would take `packet_index` past 2^32 - 1 (rule R146, U4: `refuse`). -/
  | refused
deriving DecidableEq, Repr

/-- The caller sets `granule_position` (rule R140). -/
def Writer.setGranule {σ : Type} (g : Word64) (w : Writer σ) : Writer σ :=
  { w with granulePosition := g }

/-- `pick_type(eos)`: the first page is always BeginOfStream (rule R143). -/
def Writer.pickType {σ : Type} (eos : Bool) (w : Writer σ) : PageType :=
  if !w.firstSealed then .beginOfStream else if eos then .endOfStream else .continuation

/-- The block's side of a seal up to the sink: the header registers, FB_RESET, SEAL (rule R144). -/
def Writer.prepared {σ : Type} (P : Params) (g : Word64) (t : PageType) (w : Writer σ) : State :=
  let b := writeReg .type ((typeBits t).setWidth 64) w.block
  let b := writeReg .granule g b
  let b := writeReg .streamId (w.streamId.setWidth 64) b
  let b := writeReg .packetIndex (w.packetIndex.setWidth 64) b
  sealPage P (runWith P .fbReset b)

/-- The seal procedure `seal(g, t)` (rules R144, R146). The sink's `flush()` is optional (rules R144, R147):
DESIGN CHOICE, it is never called, so no flush can fail (log entry 26). -/
def Writer.seal {σ : Type} (P : Params) (sink : SinkAnswers) (g : Word64) (t : PageType) (w : Writer σ) :
    WriteResult × Writer σ :=
  if w.packetIndex = 0xFFFFFFFF#32 then (.refused, w)
  else
    let b := w.prepared P g t
    if b.err ≠ 0 then
      (.failed b.err, { w with block := b })
    else if sink w.sinkWrites then
      let bytes := b.fbBytes 0 b.flen.toNat
      let counted :=
        match P.bytesWrittenCounts with
        | .payload => w.block.dlen.toNat
        | .serialized => b.flen.toNat
      (.done bytes.length,
        { w with
          block := runWith P .fbReset (runWith P .clear b)
          packetIndex := w.packetIndex + 1
          bytesWritten := w.bytesWritten + counted
          firstSealed := true
          eosMarked := false
          accepted := w.accepted ++ [bytes]
          sinkWrites := w.sinkWrites + 1 })
    else
      (.failed ErrKind.sinkFailure.code,
        { w with block := runWith P .fbReset b, sinkWrites := w.sinkWrites + 1 })

/-- The granule of an automatic seal: the callback's answer to the payload bytes about to be sealed if one is
set, else the writer's `granule_position`, which is not changed (rule R141). -/
def Writer.autoGranule {σ : Type} (onSeal : Option (OnSeal σ)) (w : Writer σ) :
    Word64 × Writer σ :=
  match onSeal with
  | none => (w.granulePosition, w)
  | some f =>
    let r := f w.block.dlen.toNat w.callbackState
    (r.1, { w with callbackState := r.2 })

/-- The loop of `write`. A pass empties the rest, or fills and seals the page, after which the next pass
accepts a byte: one pass more than there are bytes suffices (rule R141). -/
def Writer.writeLoop {σ : Type} (P : Params) (sink : SinkAnswers) (onSeal : Option (OnSeal σ)) (total : Nat) :
    Nat → List Byte → Writer σ → WriteResult × Writer σ
  | 0, _, w => (.done total, w)
  | n + 1, rest, w =>
    if rest = [] then (.done total, w)
    else
      let b := runWith P (.write rest) w.block
      let rest' := rest.drop b.res.toNat
      let w := { w with block := b }
      if b.err ≠ 0 then (.failed b.err, w)
      else if b.dlen.toNat = 65025 then
        let g := w.autoGranule onSeal
        match g.2.seal P sink g.1 (g.2.pickType g.2.eosMarked) with
        | (.done _, w') => Writer.writeLoop P sink onSeal total n rest' w'
        | (r, w') => (r, w')
      else Writer.writeLoop P sink onSeal total n rest' w

/-- `write(bytes)` (rule R141). -/
def Writer.write {σ : Type} (P : Params) (sink : SinkAnswers) (onSeal : Option (OnSeal σ)) (bytes : List Byte)
    (w : Writer σ) : WriteResult × Writer σ :=
  Writer.writeLoop P sink onSeal bytes.length (bytes.length + 1) bytes w

/-- `seal_packet(granule_position, is_end_of_stream)`; the callback is not called and the writer's
`granule_position` is not changed (rule R142). -/
def Writer.sealPacket {σ : Type} (P : Params) (sink : SinkAnswers) (g : Word64) (isEndOfStream : Bool)
    (w : Writer σ) : WriteResult × Writer σ :=
  w.seal P sink g (w.pickType (isEndOfStream || w.eosMarked))

/-- `mark_cur_packet_as_end_of_stream()` (rule R145). -/
def Writer.markEndOfStream {σ : Type} (w : Writer σ) : Writer σ := { w with eosMarked := true }

/-- `reset()` (rule R148). -/
def Writer.restart {σ : Type} (w : Writer σ) : Writer σ :=
  { w with
    block := run .clear w.block
    packetIndex := 0
    bytesWritten := 0
    firstSealed := false
    eosMarked := false }

end Sys2Proof.Machine
end

