-- ==== Sys2Proof/Safety.lean ====
section
/-!
DEFINITION. What the claims call a good state: the structural invariants of rule R32, the canonical form
of the memories, the lifetime of the sub-segment list, and a valid page.
-/

namespace Sys2Proof.Machine

/-- The index ranges and the canonical form of the four memories (rules R28 to R31, R40). -/
structure State.MemoryOk (s : State) : Prop where
  segtab_wf : Memory.wf s.segtab
  data_wf : Memory.wf s.data
  fb_wf : Memory.wf s.fb
  subseg_wf : Memory.wf s.subseg
  segtab_in : ∀ c ∈ s.segtab, c.1 < 255
  data_in : ∀ c ∈ s.data, c.1 < 65025
  fb_in : ∀ c ∈ s.fb, c.1 < Config.fbSize
  subseg_in : ∀ c ∈ s.subseg, c.1 < 255

/-- The structural invariants of rule R32 that the widths and types of the registers do not already give, and
the values ERR can hold (rule R160). -/
structure State.RegistersOk (s : State) : Prop where
  dlen_le : s.dlen.toNat ≤ 65025
  pos_le : s.pos.toNat ≤ s.flen.toNat
  flen_le : s.flen.toNat ≤ Config.fbSize
  err_ok : s.err.toNat ≤ 8 ∧ s.err ≠ ErrKind.sinkFailure.code ∧ s.err ≠ ErrKind.sourceFailure.code

/-- Every valid cell of DATA, FB and SUBSEG has been written: the block never reads a cell of theirs that
holds its power-on content. (SEGTAB is not in the list: the host may raise NSEG over unwritten cells.) -/
structure State.ValidWritten (s : State) : Prop where
  data_written : ∀ a < s.dlen.toNat, (entryAt s.data a).isSome
  fb_written : ∀ a < s.flen.toNat, (entryAt s.fb a).isSome
  subseg_written : ∀ k < s.nsub.toNat, (entryAt s.subseg k).isSome

/-- The sub-segment list, when there is one, is that of the current page, and OPEN says that its last run is
unterminated: descriptors of an older page are never taken for the current one (rule R27). -/
structure State.SubSegsFresh (s : State) : Prop where
  listed : s.nsub ≠ 0 → sumTable s.table = s.dlen.toNat ∧ s.subSegs = subSegments s.table
  opened : s.openRun = true → s.nsub ≠ 0 ∧ endsOpen s.table = true

/-- The invariant of the machine. -/
structure State.Inv (s : State) : Prop where
  memory : s.MemoryOk
  registers : s.RegistersOk
  written : s.ValidWritten
  subsegs : s.SubSegsFresh

/-- The page invariant: the table accounts for exactly the payload (rule R32). -/
abbrev State.PageInvariant (s : State) : Prop := sumTable s.table = s.dlen.toNat

/-- The CRC of the held page serialized, with its checksum field taken as zero (rules R17, R102). -/
def State.pageChecksum (P : Params) (s : State) : Word32 :=
  crc32 P (zeroChecksum (pageBytes P s.page))

/-- A valid page: the page invariant holds and CHECKSUM equals the recomputed checksum; VERSION is 0 and the
table has at most 255 entries in every state (rules R32, R38). -/
abbrev State.ValidPage (P : Params) (s : State) : Prop :=
  s.PageInvariant ∧ s.checksum = s.pageChecksum P

/-- A run that failed ends with ERR not 0 (rule R185). -/
abbrev State.Successful (s : State) : Prop := s.err = 0

end Sys2Proof.Machine
end

