-- ==== Sys2Proof/Certificates/Slice0/Obligations.lean ====
section
/-!
DEFINITION. The statements about the machine, from the numbered rules of spec/. In a statement about an
operation, `t = { s with f := t.f, … }` is its frame: every field of the state that is not named is
unchanged, all of memory among them where no memory is named.
-/

open Sys2Proof Sys2Proof.Machine

namespace Sys2Proof.Claims

/-- The wire byte of a page type under the default parameters (rule R63). -/
def flagByte : PageType → Byte
  | .continuation => 0x01#8
  | .beginOfStream => 0x02#8
  | .endOfStream => 0x04#8

/-- The number a little-endian string of bytes stands for (rule R62). -/
def littleEndian (bs : List Byte) : Nat := bs.foldr (fun b n => b.toNat + 256 * n) 0

/-- The number a multi-byte header field stands for under given parameters (rules R36, R42): with big-endian the
first byte is the most significant. -/
def fieldValue (P : Params) (bs : List Byte) : Nat :=
  match P.byteOrder with
  | .little => littleEndian bs
  | .big => littleEndian bs.reverse

/-- The segment count of the page at the cursor (rule R62). -/
def segCount (s : State) : Nat := (s.fbByte (s.pos.toNat + 26)).toNat

/-- The segment table of the page at the cursor (rule R62). -/
def tableAt (s : State) : List Byte := s.fbBytes (s.pos.toNat + 27) (segCount s)

/-- The total length of the page at the cursor (rule R62). -/
def lengthAt (s : State) : Nat := 27 + segCount s + sumTable (tableAt s)

/-- The page at the cursor is wholly in the frame buffer. -/
def wholeAt (s : State) : Prop := 27 ≤ s.avail s.pos.toNat ∧ lengthAt s ≤ s.avail s.pos.toNat

/-- The checksum field of the page at the cursor (rule R62). -/
def storedAt (s : State) : Nat := littleEndian (s.fbBytes (s.pos.toNat + 22) 4)

/-- The recomputed checksum of the page at the cursor (rule R102). -/
def computedAt (s : State) : Word32 := pageCrc Config.params s.fb s.pos.toNat (lengthAt s)

/-- The bytes of a memory outside the `n` bytes from `lo` read the same. -/
def sameOutside (sp : Space) (before after : List Host.Cell) (lo n : Nat) : Prop :=
  ∀ a, a < lo ∨ lo + n ≤ a → readByte sp after a = readByte sp before a

/-- The code of the first failing check of PARSE, in the order of rule R166. -/
def parseError (s : State) : Option (BitVec 4) :=
  let p := s.pos.toNat
  if s.avail p < 27 then some 3
  else if s.fbBytes p 4 ≠ [0x4F#8, 0x67#8, 0x67#8, 0x53#8] then some 1
  else if s.fbByte (p + 4) ≠ 0 then some 1
  else if s.fbByte (p + 5) ≠ 0x01#8 ∧ s.fbByte (p + 5) ≠ 0x02#8 ∧ s.fbByte (p + 5) ≠ 0x04#8 then
    some 1
  else if s.avail p < lengthAt s then some 3
  else if (computedAt s).toNat ≠ storedAt s then some 2
  else none

/-- The fifteen codes of rule R66's table, WRITE and FB_APPEND with a byte string, and what each selects. -/
def codes : List (List Byte × Instr) :=
  [([0x01#8], .new), ([0x02#8], .clear), ([0x03#8, 0x61#8, 0x62#8], .write [0x61#8, 0x62#8]),
   ([0x04#8], .getSegments), ([0x05#8], .lace), ([0x06#8], .getChecksum),
   ([0x07#8], .fillChecksum), ([0x08#8], .getLength), ([0x09#8], .parse), ([0x0A#8], .serialize),
   ([0x0B#8], .fbReset), ([0x0C#8, 0x4F#8, 0x67#8], .fbAppend [0x4F#8, 0x67#8]),
   ([0x0D#8], .fbCompact), ([0x0E#8], .clrErr), ([0x0F#8], .reset)]

/-- The state with bit `i` of byte `a` of the frame buffer flipped. -/
def flipBit (a i : Nat) (s : State) : State :=
  { s with fb := writeEntries s.fb a [s.fbByte a ^^^ (1#8 <<< i)] }

/-- The host accesses that rules R20 and R40 give a meaning (U6). -/
def accessOk : HostAccess → Prop
  | .command _ _ => True
  | .writeReg _ _ => True
  | .readReg _ => True
  | .writeIndex i _ => i ≤ 16
  | .readIndex i => i ≤ 16
  | .writeCell sp i _ => sp = .segtab ∧ i < 255
  | .readCell sp i => i < sp.size Config.params

/-- Rule R20's table of register indices, less CMD at 0 and the halves of GRANULE at 7 and 8. -/
def indexTable : List (Nat × Reg) :=
  [(1, .arg), (2, .res), (3, .err), (4, .status), (5, .version), (6, .type), (9, .streamId),
   (10, .packetIndex), (11, .checksum), (12, .nseg), (13, .dlen), (14, .flen), (15, .pos),
   (16, .nsub)]

/-- What a read of each register but CMD answers: its field, TYPE as 0, 1 or 2, STATUS with LENV at bit 0 and
OPEN at bit 1, VERSION 0 (rules R12 to R27). -/
def registerAnswers (s : State) : List (Reg × Nat) :=
  [(.arg, s.arg.toNat), (.res, s.res.toNat), (.err, s.err.toNat),
   (.status, (if s.lenv then 1 else 0) + (if s.openRun then 2 else 0)), (.version, 0),
   (.type, match s.pageType with
     | .continuation => 0
     | .beginOfStream => 1
     | .endOfStream => 2),
   (.granule, s.granule.toNat), (.streamId, s.streamId.toNat),
   (.packetIndex, s.packetIndex.toNat), (.checksum, s.checksum.toNat), (.nseg, s.nseg.toNat),
   (.dlen, s.dlen.toNat), (.flen, s.flen.toNat), (.pos, s.pos.toNat), (.nsub, s.nsub.toNat)]

/-- From `s`, PARSE after PARSE at a cursor below FLEN succeeds, leaves the listed pages in order and ends in
`u` (rule R117). -/
def parsesTo (P : Params) : State → List Page → State → Prop
  | s, [], u => u = s
  | s, pg :: rest, u => s.pos.toNat < s.flen.toNat ∧
      ∃ t, execWith P .parse s = .next t ∧ t.err = 0 ∧ t.page = pg ∧ parsesTo P t rest u

/-- The values ERR can hold (rule R160). -/
def errOk (e : BitVec 4) : Prop := e.toNat ≤ 4 ∨ e.toNat = 7 ∨ e.toNat = 8

end Sys2Proof.Claims

open Sys2Proof.Claims

/-! ### The page and the payload (rules R81 to R84) -/

/-- R81: NEW makes the block hold a fresh, empty page. -/
def Obligations.NewMakesFreshEmptyPage : Prop :=
  decode [0x01#8] = .ok .new ∧
  ∀ s : State, s.err = 0 → ∃ t, exec .new s = .next t ∧
    t = { s with
          pageType := .continuation, granule := 0, streamId := 0, packetIndex := 0, checksum := 0
          nseg := 0, dlen := 0, nsub := 0, status := t.status } ∧
    t.openRun = false ∧ t.lenv = s.lenv ∧ t.PageInvariant ∧ t.page.length = 27

/-- R82: CLEAR empties the payload and the table and keeps the header fields and every cell. -/
def Obligations.ClearEmptiesPayloadKeepsHeader : Prop :=
  decode [0x02#8] = .ok .clear ∧
  ∀ s : State, s.err = 0 → ∃ t, exec .clear s = .next t ∧
    t = { s with nseg := 0, dlen := 0, nsub := 0, status := t.status } ∧
    t.openRun = false ∧ t.lenv = s.lenv

/-- R83: WRITE appends what fits; the bytes, the count, the flags, and what stays. -/
def Obligations.WriteAppendsWhatFits : Prop :=
  ∀ (w : List Byte), decode (0x03#8 :: w) = .ok (.write w) ∧
  ∀ s : State, s.err = 0 → ∃ t, exec (.write w) s = .next t ∧
    t = { s with data := t.data, dlen := t.dlen, res := t.res, nsub := 0, status := t.status } ∧
    t.openRun = false ∧ t.lenv = s.lenv ∧
    t.res.toNat = min w.length (65025 - s.dlen.toNat) ∧
    t.dlen.toNat = s.dlen.toNat + t.res.toNat ∧
    readBytes .data t.data s.dlen.toNat t.res.toNat = w.take t.res.toNat ∧
    sameOutside .data s.data t.data s.dlen.toNat t.res.toNat

/-- The four laws of WRITE: rule R84, which the spec marks "[derived: from rule R83]". -/
def Obligations.FourLawsOfWrite : Prop :=
  ∀ (s t : State) (w : List Byte), s.err = 0 → exec (.write w) s = .next t →
    (t.res.toNat = min w.length (65025 - s.dlen.toNat) ∧
      t.dlen.toNat = s.dlen.toNat + t.res.toNat) ∧
    (∀ (w' : List Byte) (t' u : State), exec (.write w') t = .next t' →
      exec (.write (w ++ w')) s = .next u →
      t'.dlen = u.dlen ∧ ∀ a, readByte .data t'.data a = readByte .data u.data a) ∧
    (∀ a, a < s.dlen.toNat → readByte .data t.data a = readByte .data s.data a) ∧
    (t.version = s.version ∧ t.pageType = s.pageType ∧ t.granule = s.granule ∧
      t.streamId = s.streamId ∧ t.packetIndex = s.packetIndex ∧ t.checksum = s.checksum ∧
      t.nseg = s.nseg)

/-! ### Lacing (rules R90 to R96) -/

/-- R90: GET_SEGMENTS lists the sub-segments of a page that meets its invariant and says in OPEN whether the
last entry of the table is 255; without the page invariant it raises PageInvariant, code 7. -/
def Obligations.GetSegmentsListsTheTable : Prop :=
  decode [0x04#8] = .ok .getSegments ∧
  ∀ s : State, s.err = 0 →
    (s.PageInvariant → ∃ t, exec .getSegments s = .next t ∧
      t = { s with subseg := t.subseg, nsub := t.nsub, res := t.res, status := t.status } ∧
      t.lenv = s.lenv ∧
      (t.openRun = true ↔ s.nseg ≠ 0 ∧ readByte .segtab s.segtab (s.nseg.toNat - 1) = 255#8) ∧
      t.subSegs = subSegments s.table ∧ t.res.toNat = t.nsub.toNat ∧
      ∀ k, t.nsub.toNat ≤ k → readSub t.subseg k = readSub s.subseg k) ∧
    (¬ s.PageInvariant → exec .getSegments s = .next { s with err := 7 })

/-- The descriptors that GET_SEGMENTS lists are at most one for each entry of the table, contiguous from 0,
and together the whole payload: the bounds of rule R90, which the spec marks "[derived: from the
pseudocode]". -/
def Obligations.SubSegmentsCoverThePayload : Prop :=
  ∀ s t : State, s.err = 0 → exec .getSegments s = .next t → t.err = 0 →
    t.nsub.toNat ≤ s.nseg.toNat ∧
    (t.subSegs.map (fun d => d.len.toNat)).sum = s.dlen.toNat ∧
    ∀ (j : Nat) (d : SubSeg), t.subSegs[j]? = some d →
      d.off.toNat = ((t.subSegs.take j).map (fun e => e.len.toNat)).sum

/-- R91: entries of 255 followed by one below 255 are one sub-segment, and the reading goes on after it; a
trailing run of 255 is one unterminated sub-segment. -/
def Obligations.LacingReadsRunsOf255 : Prop :=
  subSegments [] = [] ∧
  (∀ k : Nat, 0 < k → k ≤ 255 →
    subSegments (List.replicate k 255#8) = [{ off := 0, len := BitVec.ofNat 17 (255 * k) }] ∧
      endsOpen (List.replicate k 255#8) = true) ∧
  ∀ (k : Nat) (r : Byte) (rest : List Byte), r.toNat < 255 → k + 1 + rest.length ≤ 255 →
    subSegments (List.replicate k 255#8 ++ r :: rest) =
      { off := 0, len := BitVec.ofNat 17 (255 * k + r.toNat) } ::
        (subSegments rest).map (fun d =>
          { off := BitVec.ofNat 17 (255 * k + r.toNat) + d.off, len := d.len }) ∧
    endsOpen (List.replicate k 255#8 ++ r :: rest) = endsOpen rest

/-- R93, R94: LACE builds the table of ARG bytes, or raises CapacityExceeded, code 4, above 65025. -/
def Obligations.LaceBuildsTheTableOfArg : Prop :=
  decode [0x05#8] = .ok .lace ∧
  ∀ s : State, s.err = 0 →
    (s.arg.toNat ≤ 65025 → ∃ t, exec .lace s = .next t ∧
      t = { s with nseg := t.nseg, segtab := t.segtab, res := t.res, nsub := 0
                   status := t.status } ∧
      t.openRun = false ∧ t.lenv = s.lenv ∧
      t.table = (if s.arg.toNat ≤ 65024 then
          List.replicate (s.arg.toNat / 255) 255#8 ++ [BitVec.ofNat 8 (s.arg.toNat % 255)]
        else List.replicate 255 255#8) ∧
      t.res.toNat = t.nseg.toNat ∧
      sameOutside .segtab s.segtab t.segtab 0 t.nseg.toNat ∧
      (s.arg.toNat = s.dlen.toNat → t.PageInvariant)) ∧
    (65025 < s.arg.toNat → exec .lace s = .next { s with err := 4 })

/-- The five laws of lacing, for every payload length up to 65025: rule R95, which the spec marks "[derived:
from rules R90 and R93, and stated as a testable property by the source]". -/
def Obligations.FiveLawsOfLacing : Prop :=
  ∀ l : Nat, l ≤ 65025 → ∃ tbl, lace l = some tbl ∧
    sumTable tbl = l ∧
    (1 ≤ tbl.length ∧ tbl.length ≤ 255 ∧ (l ≤ 65024 → tbl.length = l / 255 + 1)) ∧
    (∀ s : State, s.err = 0 → s.table = tbl → s.dlen.toNat = l →
      ∃ t, exec .getSegments s = .next t ∧ t.nsub = 1 ∧
        readSub t.subseg 0 = { off := 0, len := BitVec.ofNat 17 l } ∧
        (t.openRun = true ↔ l = 65025) ∧ t.subSegs.map t.segmentBytes = [s.payload]) ∧
    (∀ l', l' ≤ 65025 → lace l' = some tbl → l' = l) ∧
    ∀ i, i + 1 < tbl.length → tbl[i]? = some 255#8

/-! ### The CRC (rules R100 to R106) -/

/-- R103: GET_CHECKSUM reports the page's checksum, or raises Truncated, code 3. -/
def Obligations.GetChecksumReportsThePageCrc : Prop :=
  decode [0x06#8] = .ok .getChecksum ∧
  ∀ s : State, s.err = 0 →
    (wholeAt s → exec .getChecksum s = .next { s with res := computedAt s }) ∧
    (¬ wholeAt s → exec .getChecksum s = .next { s with err := 3 })

/-- R104: FILL_CHECKSUM stores the checksum in the page's four bytes and in RES, or raises Truncated. -/
def Obligations.FillChecksumStoresThePageCrc : Prop :=
  decode [0x07#8] = .ok .fillChecksum ∧
  ∀ s : State, s.err = 0 →
    (wholeAt s → ∃ t, exec .fillChecksum s = .next t ∧
      t = { s with fb := t.fb, res := computedAt s } ∧
      littleEndian (t.fbBytes (s.pos.toNat + 22) 4) = (computedAt s).toNat ∧
      sameOutside .fb s.fb t.fb (s.pos.toNat + 22) 4) ∧
    (¬ wholeAt s → exec .fillChecksum s = .next { s with err := 3 })

/-- Filling twice writes the same bytes, GET_CHECKSUM returns the value stored, and VERIFY agrees: the corner
cases of rule R104, the first of which the spec marks "[derived: from rule R102]". -/
def Obligations.FilledChecksumVerifies : Prop :=
  ∀ s t : State, s.err = 0 → wholeAt s → exec .fillChecksum s = .next t →
    exec .getChecksum t = .next t ∧ (verifyPage Config.params t).2 = true ∧
    ∃ u, exec .fillChecksum t = .next u ∧ u = { t with fb := u.fb } ∧
      ∀ a, readByte .fb u.fb a = readByte .fb t.fb a

/-- The table form of `crc_step`, its sample entries, and leading zeros: what rules R100 and R101 mark
"[derived: linearity of the loop]" and "[derived: from rule R100, `crc_step(0, 0) = 0`]". -/
def Obligations.CrcStepHasTableForm : Prop :=
  (∀ (poly c : Word32) (b : Byte), crcStep poly c b =
    (c <<< 8) ^^^ crcStep poly 0 ((c >>> 24).setWidth 8 ^^^ b)) ∧
  crcStep 0x04C11DB7#32 0 0x00#8 = 0x00000000#32 ∧
  crcStep 0x04C11DB7#32 0 0x01#8 = 0x04C11DB7#32 ∧
  crcStep 0x04C11DB7#32 0 0x02#8 = 0x09823B6E#32 ∧
  crcStep 0x04C11DB7#32 0 0x80#8 = 0x690CE0EE#32 ∧
  crcStep 0x04C11DB7#32 0 0xFF#8 = 0xB1F740B4#32 ∧
  ∀ (n : Nat) (s : List Byte),
    crc32 Config.params (List.replicate n 0 ++ s) = crc32 Config.params s

/-- Strings of one length that differ in exactly one bit have different checksums: rule R106, which the spec
marks "[from general knowledge, not in source]". -/
def Obligations.CrcDetectsEverySingleBit : Prop :=
  ∀ (u v : List Byte) (b : Byte) (i : Nat), i < 8 →
    crc32 Config.params (u ++ b :: v) ≠ crc32 Config.params (u ++ (b ^^^ (1#8 <<< i)) :: v)

/-- One flipped bit outside the segment count and the table makes PARSE raise MalformedHeader in the first six
bytes and ChecksumMismatch elsewhere: the table of rule R106, which the spec marks "[derived: from rules R68,
R102, R112]". -/
def Obligations.FlippedBitFailsParse : Prop :=
  ∀ (s t : State) (k i : Nat), s.err = 0 → exec .parse s = .next t → t.err = 0 → i < 8 →
    k < lengthAt s → k < 26 ∨ 27 + segCount s ≤ k →
    exec .parse (flipBit (s.pos.toNat + k) i s) =
      .next { flipBit (s.pos.toNat + k) i s with err := if k < 6 then 1 else 2 }

/-! ### Length discovery, parse, serialize (rules R110 to R120) -/

/-- R111: GET_LENGTH answers in every case and never raises. -/
def Obligations.GetLengthAnswersInEveryCase : Prop :=
  decode [0x08#8] = .ok .getLength ∧
  ∀ s : State, s.err = 0 → ∃ t, exec .getLength s = .next t ∧
    t = { s with res := t.res, status := t.status } ∧ t.openRun = s.openRun ∧
    if s.avail s.pos.toNat < 27 then t.res.toNat = 27 ∧ t.lenv = false
    else if s.avail s.pos.toNat < 27 + segCount s then
      t.res.toNat = 27 + segCount s ∧ t.lenv = false
    else t.res.toNat = lengthAt s ∧ t.lenv = true

/-- A discovered length never changes as more bytes arrive: the last sentence of rule R138, which the spec
marks "[derived: from rule R110]". -/
def Obligations.DiscoveredLengthIsStable : Prop :=
  ∀ (s t : State) (w : List Byte) (p n : Nat), s.err = 0 → pageExtent s p = .length n →
    exec (.fbAppend w) s = .next t → pageExtent t p = .length n

/-- R112, R68: PARSE's first failing check decides the error and nothing but ERR changes; a page that passes
every check is loaded, field for field, and the cursor moves past it. -/
def Obligations.ParseChecksThenLoads : Prop :=
  decode [0x09#8] = .ok .parse ∧
  ∀ s : State, s.err = 0 →
    (∀ c, parseError s = some c → exec .parse s = .next { s with err := c }) ∧
    (parseError s = none → ∃ t, exec .parse s = .next t ∧
      t = { s with
            pageType := t.pageType, granule := t.granule, streamId := t.streamId
            packetIndex := t.packetIndex, checksum := t.checksum, nseg := t.nseg, dlen := t.dlen
            segtab := t.segtab, data := t.data, pos := t.pos, res := t.res, nsub := 0
            status := t.status } ∧
      t.openRun = false ∧ t.lenv = s.lenv ∧
      flagByte t.pageType = s.fbByte (s.pos.toNat + 5) ∧
      t.granule.toNat = littleEndian (s.fbBytes (s.pos.toNat + 6) 8) ∧
      t.streamId.toNat = littleEndian (s.fbBytes (s.pos.toNat + 14) 4) ∧
      t.packetIndex.toNat = littleEndian (s.fbBytes (s.pos.toNat + 18) 4) ∧
      t.checksum.toNat = storedAt s ∧
      t.table = tableAt s ∧ t.dlen.toNat = sumTable (tableAt s) ∧
      t.payload = s.fbBytes (s.pos.toNat + 27 + segCount s) (sumTable (tableAt s)) ∧
      t.res.toNat = lengthAt s ∧ t.pos.toNat = s.pos.toNat + lengthAt s ∧
      sameOutside .segtab s.segtab t.segtab 0 t.nseg.toNat ∧
      sameOutside .data s.data t.data 0 t.dlen.toNat)

/-- R63: the type-flags byte is one-hot, one byte for each page type, and every other byte is undecodable. -/
def Obligations.TypeFlagsByteIsOneHot : Prop :=
  (∀ ty : PageType, typeCode Config.params ty = flagByte ty) ∧
  ∀ (b : Byte) (ty : PageType), typeDecode Config.params b = some ty ↔ b = flagByte ty

/-- The page that a successful PARSE leaves is valid, under any parameters that rules R8 and R9 allow (rules
R32, R112; the spec marks R32 "[derived]"). -/
def Obligations.ParsedPageIsValid : Prop :=
  ∀ (P : Params) (s t : State), P.Valid → s.err = 0 → execWith P .parse s = .next t → t.err = 0 →
    t.ValidPage P

/-- A successful PARSE moves the cursor on by at least 27 and not past FLEN: the last sentence of rule R117,
which the spec marks "[derived: from rule R112]". -/
def Obligations.SuccessfulParseAdvances : Prop :=
  ∀ s t : State, s.err = 0 → exec .parse s = .next t → t.err = 0 →
    s.pos.toNat + 27 ≤ t.pos.toNat ∧ t.pos.toNat ≤ t.flen.toNat

/-- R113: SERIALIZE appends the page in the wire format with its checksum; it raises PageInvariant, code 7,
before CapacityExceeded, code 4, and nothing but ERR changes then. -/
def Obligations.SerializeAppendsTheWireFormat : Prop :=
  decode [0x0A#8] = .ok .serialize ∧
  ∀ s : State, s.err = 0 →
    (s.PageInvariant → s.flen.toNat + (27 + s.nseg.toNat + s.dlen.toNat) ≤ Config.fbSize →
      ∃ t, exec .serialize s = .next t ∧
        t = { s with fb := t.fb, flen := t.flen, checksum := t.checksum, res := t.res } ∧
        t.res.toNat = 27 + s.nseg.toNat + s.dlen.toNat ∧
        t.flen.toNat = s.flen.toNat + t.res.toNat ∧
        t.fbBytes s.flen.toNat 4 = [0x4F#8, 0x67#8, 0x67#8, 0x53#8] ∧
        t.fbByte (s.flen.toNat + 4) = 0 ∧
        t.fbByte (s.flen.toNat + 5) = flagByte s.pageType ∧
        littleEndian (t.fbBytes (s.flen.toNat + 6) 8) = s.granule.toNat ∧
        littleEndian (t.fbBytes (s.flen.toNat + 14) 4) = s.streamId.toNat ∧
        littleEndian (t.fbBytes (s.flen.toNat + 18) 4) = s.packetIndex.toNat ∧
        littleEndian (t.fbBytes (s.flen.toNat + 22) 4) = t.checksum.toNat ∧
        t.fbByte (s.flen.toNat + 26) = s.nseg ∧
        t.fbBytes (s.flen.toNat + 27) s.nseg.toNat = s.table ∧
        t.fbBytes (s.flen.toNat + 27 + s.nseg.toNat) s.dlen.toNat = s.payload ∧
        t.checksum = pageCrc Config.params t.fb s.flen.toNat t.res.toNat ∧
        sameOutside .fb s.fb t.fb s.flen.toNat t.res.toNat) ∧
    (¬ s.PageInvariant → exec .serialize s = .next { s with err := 7 }) ∧
    (s.PageInvariant → Config.fbSize < s.flen.toNat + (27 + s.nseg.toNat + s.dlen.toNat) →
      exec .serialize s = .next { s with err := 4 })

/-- Parsing what was serialized gives the page back, field for field, and length discovery finds its length:
laws 1 and 3 of rule R120, which the spec marks "[derived: from rules R112 and R113]", under any parameters that
rules R8 and R9 allow. -/
def Obligations.ParseInvertsSerialize : Prop :=
  ∀ (P : Params) (s t : State), P.Valid → s.err = 0 → execWith P .serialize s = .next t →
    t.err = 0 →
    pageExtent t s.flen.toNat = .length t.res.toNat ∧
    t.page = { s.page with checksum := t.checksum } ∧
    (s.ValidPage P → t.page = s.page) ∧
    ∃ u, execWith P .parse (writeReg .pos (s.flen.setWidth 64) t) = .next u ∧ u.err = 0 ∧
      u.page = t.page ∧ u.pos = t.flen

/-- Serializing what was parsed gives the bytes back: law 2 of rule R120, which the spec marks "[derived: from
rules R112 and R113]", under any parameters that rules R8 and R9 allow. -/
def Obligations.SerializeInvertsParse : Prop :=
  ∀ (P : Params) (s t : State), P.Valid → s.err = 0 → execWith P .parse s = .next t → t.err = 0 →
    s.flen.toNat + t.res.toNat ≤ P.fbSize →
    ∃ u, execWith P .serialize t = .next u ∧ u.err = 0 ∧ u.res = t.res ∧
      u.fbBytes s.flen.toNat t.res.toNat = s.fbBytes s.pos.toNat t.res.toNat

/-- R114: FB_RESET discards the frame buffer. -/
def Obligations.FbResetDiscardsTheBuffer : Prop :=
  decode [0x0B#8] = .ok .fbReset ∧
  ∀ s : State, s.err = 0 → ∃ t, exec .fbReset s = .next t ∧
    t = { s with flen := 0, pos := 0, status := t.status } ∧
    t.lenv = false ∧ t.openRun = s.openRun

/-- R115: FB_APPEND appends what fits. -/
def Obligations.FbAppendAppendsWhatFits : Prop :=
  ∀ (w : List Byte), decode (0x0C#8 :: w) = .ok (.fbAppend w) ∧
  ∀ s : State, s.err = 0 → ∃ t, exec (.fbAppend w) s = .next t ∧
    t = { s with fb := t.fb, flen := t.flen, res := t.res } ∧
    t.res.toNat = min w.length (Config.fbSize - s.flen.toNat) ∧
    t.flen.toNat = s.flen.toNat + t.res.toNat ∧
    t.fbBytes s.flen.toNat t.res.toNat = w.take t.res.toNat ∧
    sameOutside .fb s.fb t.fb s.flen.toNat t.res.toNat

/-- R116: FB_COMPACT moves the bytes from the cursor on to index 0. -/
def Obligations.FbCompactDropsBytesBeforeCursor : Prop :=
  decode [0x0D#8] = .ok .fbCompact ∧
  ∀ s : State, s.err = 0 → ∃ t, exec .fbCompact s = .next t ∧
    t = { s with fb := t.fb, flen := t.flen, pos := 0, res := t.res, status := t.status } ∧
    t.lenv = false ∧ t.openRun = s.openRun ∧
    t.flen.toNat = s.flen.toNat - s.pos.toNat ∧ t.res = t.flen ∧
    t.fbBytes 0 t.flen.toNat = s.fbBytes s.pos.toNat t.flen.toNat ∧
    sameOutside .fb s.fb t.fb 0 t.flen.toNat

/-! ### Errors, the gate, reset (rules R160 to R167, R181) -/

/-- R164: an operation that raises changes no state but ERR. -/
def Obligations.RaisingChangesOnlyErr : Prop :=
  ∀ (i : Instr) (s t : State), s.err = 0 → exec i s = .next t → t.err ≠ 0 →
    t = { s with err := t.err }

/-- Which operation can raise what, complete: rule R161, which the spec marks "[derived: from the rules of
files 40 to 43]". -/
def Obligations.OnlyTheListedErrorsAreRaised : Prop :=
  (∀ (i : Instr) (s t : State), s.err = 0 → exec i s = .next t → t.err ≠ 0 →
    match i with
    | .lace => t.err = 4
    | .getSegments => t.err = 7
    | .getChecksum => t.err = 3
    | .fillChecksum => t.err = 3
    | .parse => t.err = 3 ∨ t.err = 1 ∨ t.err = 2
    | .serialize => t.err = 7 ∨ t.err = 4
    | .new | .clear | .write _ | .getLength | .fbReset | .fbAppend _ | .fbCompact | .clrErr
    | .reset => False) ∧
  ∀ (c : Byte) (w : List Byte) (s : State), s.err = 0 → (c = 0 ∨ 16 ≤ c.toNat) →
    perform (.command c w) s = .next { s with err := 8 }

/-- R160: ERR never holds a code of the host software nor an unused one. -/
def Obligations.ErrHoldsOnlyTheBlocksCodes : Prop :=
  ∀ (a : HostAccess) (s t : State), errOk s.err → perform a s = .next t → errOk t.err

/-- R165: while ERR is not 0, every command but CLR_ERR and RESET is ignored; every other access of the host is
served as it is with ERR 0, and a read of ERR answers the first error. -/
def Obligations.StickyErrorIgnoresCommands : Prop :=
  ∀ s : State, s.err ≠ 0 →
    (∀ i : Instr, i ≠ .clrErr → i ≠ .reset → exec i s = .next s) ∧
    (∀ (c : Byte) (w : List Byte), c ≠ 0x0E#8 → c ≠ 0x0F#8 →
      perform (.command c w) s = .next s) ∧
    (∀ (r : Reg) (v : Word64), r ≠ .cmd → ∃ t,
      perform (.writeReg r v) { s with err := 0 } = .next t ∧
      perform (.writeReg r v) s = .next { t with err := s.err }) ∧
    (∀ (i : Nat) (b : Byte), i < 255 → ∃ t,
      perform (.writeCell .segtab i b) { s with err := 0 } = .next t ∧
      perform (.writeCell .segtab i b) s = .next { t with err := s.err }) ∧
    (∀ r : Reg, r ≠ .err → ∃ t, perform (.readReg r) { s with err := 0 } = .next t ∧
      perform (.readReg r) s = .next { t with err := s.err }) ∧
    (∀ (sp : Space) (i : Nat), i < sp.size Config.params → ∃ t,
      perform (.readCell sp i) { s with err := 0 } = .next t ∧
      perform (.readCell sp i) s = .next { t with err := s.err }) ∧
    perform (.readReg .err) s = .next { s with hostData := some (.value (s.err.setWidth 64)) }

/-- R67: a code that selects no operation raises IllegalCommand, code 8, and is ignored while ERR is not 0. -/
def Obligations.IllegalCodeRaisesIllegalCommand : Prop :=
  ∀ (c : Byte) (w : List Byte) (s : State), (c = 0 ∨ 16 ≤ c.toNat) →
    perform (.command c w) s = .next { s with err := if s.err = 0 then 8 else s.err }

/-- R167: CLR_ERR clears ERR and nothing else, whatever ERR holds. -/
def Obligations.ClrErrClearsOnlyErr : Prop :=
  decode [0x0E#8] = .ok .clrErr ∧
  ∀ s : State, exec .clrErr s = .next { s with err := 0 }

/-- R181: RESET returns every register to 0, writes no cell, and runs whatever ERR holds. -/
def Obligations.ResetReturnsRegistersToZero : Prop :=
  decode [0x0F#8] = .ok .reset ∧
  ∀ s : State, exec .reset s = .next
    { s with
      arg := 0, res := 0, err := 0, status := 0
      pageType := .continuation, granule := 0, streamId := 0, packetIndex := 0, checksum := 0
      nseg := 0, dlen := 0, flen := 0, pos := 0, nsub := 0 }

/-- RESET is NEW, FB_RESET and CLR_ERR with ARG and RES set to 0: the sentence of rule R181 that the spec marks
"[derived: from rules R81, R114, R167]". -/
def Obligations.ResetIsNewFbResetClrErr : Prop :=
  ∀ s : State, s.err = 0 → exec .reset s =
    .next { run .clrErr (run .fbReset (run .new s)) with arg := 0, res := 0 }

/-- R34: after power-on and after RESET every register that has a reset value reads 0 and no cell is valid. -/
def Obligations.ResetValuesAreZero : Prop :=
  (∀ r : Reg, r ≠ .cmd → regValue r State.reset = some 0) ∧
  (∀ sp : Space, validCells sp State.reset = 0) ∧
  ∀ s : State, ∃ t, exec .reset s = .next t ∧
    (∀ r : Reg, r ≠ .cmd → regValue r t = some 0) ∧ ∀ sp : Space, validCells sp t = 0

/-! ### Commands and steps (rules R18, R48, R65, R66) -/

/-- R21, R48: the step serves the oldest access the host issued; a command, which is a write of CMD, runs the
operation that its code selects, or is illegal; with no access issued the step waits. That the accesses are a
list in the state is the model's choice (log entry 1), and that a write of CMD through the register file has an
empty W is too (log entry 9). -/
def Obligations.StepRunsTheIssuedOperation : Prop :=
  (∀ (s : State) (a : HostAccess) (rest : List HostAccess), s.accesses = a :: rest →
    step s = perform a { s with accesses := rest }) ∧
  (∀ (s : State) (c : Byte) (w : List Byte) (i : Instr), decode (transaction c w) = .ok i →
    perform (.command c w) s = exec i s) ∧
  (∀ (s : State) (v : Word64),
    perform (.writeReg .cmd v) s = perform (.command (BitVec.ofNat 8 v.toNat) []) s) ∧
  (∀ (s : State) (v : Word32),
    perform (.writeIndex 0 v) s = perform (.command (BitVec.ofNat 8 v.toNat) []) s) ∧
  (∀ (s : State) (c : Byte) (w : List Byte) (rest : List HostAccess) (i : Instr),
    s.accesses = .command c w :: rest → decode (transaction c w) = .ok i →
    step s = exec i { s with accesses := rest }) ∧
  ∀ s : State, s.accesses = [] → step s = .next s

/-- R66: the code of every operation, written out from the table, decodes to it. -/
def Obligations.TableCodesDecode : Prop :=
  ∀ p ∈ codes, decode p.1 = .ok p.2

/-- A transaction decodes to an operation exactly when it is that operation's encoding, and a command's code
selects none exactly when rule R67 calls it illegal. That a transaction's bytes are the code and then W, and
that the decoder rejects bytes beyond the code of an operation without W, is the model's choice (log entries 7,
8). -/
def Obligations.DecodeAndEncodeAgree : Prop :=
  (∀ (bs : List Byte) (i : Instr), decode bs = .ok i ↔ bs = encode i) ∧
  ∀ (c : Byte) (w : List Byte),
    (∃ e, decode (transaction c w) = .error e) ↔ (c = 0 ∨ 16 ≤ c.toNat)

/-- No access of an operation can fault (rule R87, which the spec marks "[derived]"); every host access that
the rules give a meaning is served, and the others are refused, which is the model's choice for the writes of
cells that are host read only (log entry 10). -/
def Obligations.EveryMeaningfulAccessIsServed : Prop :=
  (∀ (i : Instr) (s : State), ∃ t, exec i s = .next t) ∧
  ∀ (a : HostAccess) (s : State),
    (accessOk a → ∃ t, perform a s = .next t) ∧ (¬ accessOk a → ∃ r, perform a s = .refused r)

/-! ### Invariants (rules R20, R27, R32) -/

/-- The invariant of the machine holds at reset (rule R32, which the spec marks "[derived]"). -/
def Obligations.InvariantHoldsAtReset : Prop := State.reset.Inv

/-- Every step keeps the structural invariants of rule R32 (which the spec marks "[derived]"), the canonical form and ranges of the memories, and
the freshness of the sub-segment list (rule R27). -/
def Obligations.StepKeepsInvariant : Prop :=
  ∀ s t : State, s.Inv → step s = .next t → t.Inv

/-- Which operations write which register, flag and memory (rules R20, R23 to R25, R27 to R31, R161); no operation writes the
model's own three fields (log entries 1, 5, 6). -/
def Obligations.OperationsWriteOnlyTheirState : Prop :=
  ∀ (i : Instr) (s t : State), exec i s = .next t →
    (t.arg ≠ s.arg → i = .reset) ∧
    (t.pageType ≠ s.pageType ∨ t.granule ≠ s.granule ∨ t.streamId ≠ s.streamId ∨
      t.packetIndex ≠ s.packetIndex → i = .parse ∨ i = .new ∨ i = .reset) ∧
    (t.checksum ≠ s.checksum → i = .parse ∨ i = .serialize ∨ i = .new ∨ i = .reset) ∧
    (t.nseg ≠ s.nseg → i = .lace ∨ i = .parse ∨ i = .new ∨ i = .clear ∨ i = .reset) ∧
    (t.dlen ≠ s.dlen → (∃ w, i = .write w) ∨ i = .parse ∨ i = .new ∨ i = .clear ∨ i = .reset) ∧
    (t.flen ≠ s.flen → i = .serialize ∨ (∃ w, i = .fbAppend w) ∨ i = .fbReset ∨ i = .fbCompact ∨
      i = .reset) ∧
    (t.pos ≠ s.pos → i = .parse ∨ i = .fbReset ∨ i = .fbCompact ∨ i = .reset) ∧
    (t.segtab ≠ s.segtab → i = .lace ∨ i = .parse) ∧
    (t.data ≠ s.data → (∃ w, i = .write w) ∨ i = .parse) ∧
    (t.fb ≠ s.fb → i = .serialize ∨ i = .fillChecksum ∨ (∃ w, i = .fbAppend w) ∨ i = .fbCompact) ∧
    (t.subseg ≠ s.subseg → i = .getSegments) ∧
    (t.nsub ≠ s.nsub ∨ t.openRun ≠ s.openRun → i = .getSegments ∨ i = .new ∨ i = .clear ∨
      (∃ w, i = .write w) ∨ i = .lace ∨ i = .parse ∨ i = .reset) ∧
    (t.lenv ≠ s.lenv → i = .getLength ∨ i = .fbReset ∨ i = .fbCompact ∨ i = .reset) ∧
    (t.res ≠ s.res → (∃ w, i = .write w) ∨ (∃ w, i = .fbAppend w) ∨ i = .lace ∨
      i = .getSegments ∨ i = .getChecksum ∨ i = .fillChecksum ∨ i = .getLength ∨ i = .parse ∨
      i = .serialize ∨ i = .fbCompact ∨ i = .reset) ∧
    (t.err ≠ s.err → i = .lace ∨ i = .getSegments ∨ i = .getChecksum ∨ i = .fillChecksum ∨
      i = .parse ∨ i = .serialize ∨ i = .clrErr ∨ i = .reset) ∧
    t.accesses = s.accesses ∧ t.hostData = s.hostData ∧ t.freeReads = s.freeReads

/-- Where the page invariant holds (rule R32, which the spec marks "[derived]"): after RESET, NEW, CLEAR, a successful PARSE, and LACE with
`ARG = DLEN`. -/
def Obligations.PageInvariantHoldsAfter : Prop :=
  ∀ s t : State, s.err = 0 →
    (exec .reset s = .next t → t.PageInvariant) ∧ (exec .new s = .next t → t.PageInvariant) ∧
    (exec .clear s = .next t → t.PageInvariant) ∧
    (exec .parse s = .next t → t.err = 0 → t.PageInvariant) ∧
    (s.dlen.toNat ≤ 65025 → s.arg.toNat = s.dlen.toNat → exec .lace s = .next t → t.PageInvariant)

/-! ### Host accesses (rules R12, R20, R27, R35, R45, R52) -/

/-- R35: the ignored writes, and what a write of NSEG or of a cell of SEGTAB does beside, whatever ERR
holds. -/
def Obligations.IgnoredHostWritesAreIgnored : Prop :=
  ∀ (s : State) (v : Word64),
    (∀ r ∈ [Reg.version, Reg.res, Reg.err, Reg.status, Reg.dlen, Reg.flen, Reg.nsub],
      perform (.writeReg r v) s = .next s) ∧
    (v.toNat % 4 = 3 → perform (.writeReg .type v) s = .next s) ∧
    (s.flen.toNat < v.toNat % 2 ^ 32 → perform (.writeReg .pos v) s = .next s) ∧
    (∃ t, perform (.writeReg .nseg v) s = .next t ∧ t.nseg.toNat = v.toNat % 256 ∧
      t = { s with nseg := t.nseg, nsub := 0, status := t.status } ∧ t.openRun = false ∧
      t.lenv = s.lenv) ∧
    (∀ r : Reg, ∃ t, perform (.readReg r) s = .next t) ∧
    (∀ (sp : Space) (i : Nat), i < sp.size Config.params → ∃ t, perform (.readCell sp i) s = .next t) ∧
    ∀ (i : Nat) (b : Byte), i < 255 → ∃ t, perform (.writeCell .segtab i b) s = .next t ∧
      t = { s with segtab := t.segtab, nsub := 0, status := t.status } ∧ t.openRun = false ∧
      t.lenv = s.lenv ∧ readByte .segtab t.segtab i = b ∧ sameOutside .segtab s.segtab t.segtab i 1

/-- R20, R48: a host write of a writable register is seen by the next read of it, cut to the register's width,
and changes no other register; a legal TYPE and a POS up to FLEN are taken. A write by index is the write by
name of the register that R20's table gives the index, and 7 and 8 are the low and the high half of GRANULE.
That GRANULE is written whole by name and by halves by index is the model's choice (log entry 9). -/
def Obligations.HostWritesAreReadBack : Prop :=
  ∀ (s : State) (v : Word64),
    (∀ p ∈ indexTable, ∀ x : Word32,
      perform (.writeIndex p.1 x) s = perform (.writeReg p.2 (BitVec.ofNat 64 x.toNat)) s) ∧
    (∀ x : Word32, ∃ t, perform (.writeIndex 7 x) s = .next t ∧ t = { s with granule := t.granule } ∧
      t.granule.toNat = s.granule.toNat / 2 ^ 32 * 2 ^ 32 + x.toNat) ∧
    (∀ x : Word32, ∃ t, perform (.writeIndex 8 x) s = .next t ∧ t = { s with granule := t.granule } ∧
      t.granule.toNat = x.toNat * 2 ^ 32 + s.granule.toNat % 2 ^ 32) ∧
    (∃ t, perform (.writeReg .nseg v) s = .next t ∧
      regValue .nseg t = some (BitVec.ofNat 64 (v.toNat % 2 ^ 8))) ∧
    (∃ t, perform (.writeReg .arg v) s = .next t ∧ t = { s with arg := t.arg } ∧
      regValue .arg t = some (BitVec.ofNat 64 (v.toNat % 2 ^ 32))) ∧
    (∃ t, perform (.writeReg .granule v) s = .next t ∧ t = { s with granule := t.granule } ∧
      regValue .granule t = some v) ∧
    (∃ t, perform (.writeReg .streamId v) s = .next t ∧ t = { s with streamId := t.streamId } ∧
      regValue .streamId t = some (BitVec.ofNat 64 (v.toNat % 2 ^ 32))) ∧
    (∃ t, perform (.writeReg .packetIndex v) s = .next t ∧
      t = { s with packetIndex := t.packetIndex } ∧
      regValue .packetIndex t = some (BitVec.ofNat 64 (v.toNat % 2 ^ 32))) ∧
    (∃ t, perform (.writeReg .checksum v) s = .next t ∧ t = { s with checksum := t.checksum } ∧
      regValue .checksum t = some (BitVec.ofNat 64 (v.toNat % 2 ^ 32))) ∧
    (v.toNat % 4 ≠ 3 → ∃ t, perform (.writeReg .type v) s = .next t ∧
      t = { s with pageType := t.pageType } ∧
      regValue .type t = some (BitVec.ofNat 64 (v.toNat % 4))) ∧
    (v.toNat % 2 ^ 32 ≤ s.flen.toNat → ∃ t, perform (.writeReg .pos v) s = .next t ∧
      t = { s with pos := t.pos } ∧ regValue .pos t = some (BitVec.ofNat 64 (v.toNat % 2 ^ 32)))

/-- R20, R45, R52: a host read changes no state of the block; a read of a register answers its field, by name and
by the index of R20's table, GRANULE by index in halves (log entry 9); a read of a valid cell answers its
content. The two fields that change are the model's own (log entries 5, 6). -/
def Obligations.HostReadsHaveNoSideEffect : Prop :=
  (∀ (s : State), ∀ p ∈ registerAnswers s,
    perform (.readReg p.1) s =
      .next { s with hostData := some (.value (BitVec.ofNat 64 p.2)) }) ∧
  (∀ (s : State), ∀ p ∈ indexTable, perform (.readIndex p.1) s = perform (.readReg p.2) s) ∧
  (∀ s : State, perform (.readIndex 0) s = perform (.readReg .cmd) s ∧
    perform (.readIndex 7) s = .next
      { s with hostData := some (.value (BitVec.ofNat 64 (s.granule.toNat % 2 ^ 32))) } ∧
    perform (.readIndex 8) s = .next
      { s with hostData := some (.value (BitVec.ofNat 64 (s.granule.toNat / 2 ^ 32))) }) ∧
  (∀ (r : Reg) (s t : State), perform (.readReg r) s = .next t →
    t = { s with hostData := t.hostData, freeReads := t.freeReads } ∧
    ∀ v, regValue r s = some v → t.hostData = some (.value v)) ∧
  (∀ (i : Nat) (s t : State), perform (.readIndex i) s = .next t →
    t = { s with hostData := t.hostData, freeReads := t.freeReads }) ∧
  (∀ (sp : Space) (i : Nat) (s t : State), perform (.readCell sp i) s = .next t →
    t = { s with hostData := t.hostData, freeReads := t.freeReads }) ∧
  ∀ (i : Nat) (s : State),
    (i < 255 → i < s.nseg.toNat → ∃ t, perform (.readCell .segtab i) s = .next t ∧
      t.hostData = some (.value ((readByte .segtab s.segtab i).setWidth 64))) ∧
    (i < 65025 → i < s.dlen.toNat → ∃ t, perform (.readCell .data i) s = .next t ∧
      t.hostData = some (.value ((readByte .data s.data i).setWidth 64))) ∧
    (i < Config.fbSize → i < s.flen.toNat → ∃ t, perform (.readCell .fb i) s = .next t ∧
      t.hostData = some (.value ((s.fbByte i).setWidth 64))) ∧
    (i < s.nsub.toNat → ∃ t, perform (.readCell .subseg i) s = .next t ∧
      t.hostData = some (.descriptor (readSub s.subseg i)))

/-- R12: VERSION is hardwired to 0. -/
def Obligations.VersionIsHardwiredToZero : Prop :=
  ∀ (s : State) (v : Word64), regValue .version s = some 0 ∧
    perform (.writeReg .version v) s = .next s

/-! ### The parameters (rules R8, R9, R11) -/

/-- R8, R11: the parameters are inputs of a step; the machine is the case of the values the spec takes, and no
operation but the five that name one depends on them. -/
def Obligations.ParametersAreInputsOfTheStep : Prop :=
  (∀ s : State, step s = stepWith Config.params s) ∧
  (∀ (i : Instr) (s : State), exec i s = execWith Config.params i s) ∧
  (∀ (P : Params) (s : State) (c : Byte) (w : List Byte) (rest : List HostAccess) (i : Instr),
    s.accesses = .command c w :: rest → decode (transaction c w) = .ok i →
    stepWith P s = execWith P i { s with accesses := rest }) ∧
  (∀ (P : Params) (i : Instr) (s : State),
    i ≠ .getChecksum → i ≠ .fillChecksum → i ≠ .parse → i ≠ .serialize →
    (∀ w, i ≠ .fbAppend w) → execWith P i s = exec i s) ∧
  ∀ (P : Params) (s : State) (w : List Byte), P.Valid → s.err = 0 →
    ∃ t, execWith P (.fbAppend w) s = .next t ∧ t.res.toNat = min w.length (P.fbSize - s.flen.toNat)

/-- R8, R9, R113: under any parameters that rules R8 and R9 allow, SERIALIZE emits the magic, the type byte, the
byte order and the checksum that they give, wherever the page fits in a buffer of their size. -/
def Obligations.SerializeFollowsTheParameters : Prop :=
  ∀ (P : Params) (s : State), P.Valid → s.err = 0 → s.PageInvariant →
    s.flen.toNat + (27 + s.nseg.toNat + s.dlen.toNat) ≤ P.fbSize →
    ∃ t, execWith P .serialize s = .next t ∧ t.err = 0 ∧
      t.fbBytes s.flen.toNat 4 = P.magic ∧
      t.fbByte (s.flen.toNat + 5) =
        (match s.pageType with
          | .continuation => P.codeContinuation
          | .beginOfStream => P.codeBeginOfStream
          | .endOfStream => P.codeEndOfStream) ∧
      fieldValue P (t.fbBytes (s.flen.toNat + 6) 8) = s.granule.toNat ∧
      fieldValue P (t.fbBytes (s.flen.toNat + 14) 4) = s.streamId.toNat ∧
      fieldValue P (t.fbBytes (s.flen.toNat + 18) 4) = s.packetIndex.toNat ∧
      fieldValue P (t.fbBytes (s.flen.toNat + 22) 4) = t.checksum.toNat ∧
      t.checksum = pageCrc P t.fb s.flen.toNat t.res.toNat

/-! ### The pseudo-operations and the host software (rules R117 to R119, R130 to R150) -/

/-- SEAL cannot raise but for want of room in FB: rule R119, which the spec marks "[derived: from rules R94,
R95, R113]", under any parameters that rules R8 and R9 allow. -/
def Obligations.SealFailsOnlyForWantOfRoom : Prop :=
  ∀ (P : Params) (s : State), P.Valid → s.err = 0 → s.dlen.toNat ≤ 65025 →
    (s.flen.toNat + (27 + min 255 (s.dlen.toNat / 255 + 1) + s.dlen.toNat) ≤ P.fbSize →
      (sealPage P s).err = 0 ∧ (sealPage P s).PageInvariant ∧
      (sealPage P s).payload = s.payload ∧ lace s.dlen.toNat = some (sealPage P s).table ∧
      (sealPage P s).flen.toNat = s.flen.toNat + (sealPage P s).res.toNat ∧
      (sealPage P s).res.toNat = 27 + min 255 (s.dlen.toNat / 255 + 1) + s.dlen.toNat) ∧
    (P.fbSize < s.flen.toNat + (27 + min 255 (s.dlen.toNat / 255 + 1) + s.dlen.toNat) →
      (sealPage P s).err = 4)

/-- R118: INTO_BYTES emits SERIALIZE's bytes and leaves a fresh page; if SERIALIZE raises, the page is kept. -/
def Obligations.IntoBytesConsumesThePage : Prop :=
  ∀ (P : Params) (s t : State), s.err = 0 → execWith P .serialize s = .next t →
    (t.err = 0 → (intoBytes P s).fb = t.fb ∧ (intoBytes P s).flen = t.flen ∧
      (intoBytes P s).page = State.reset.page ∧ (intoBytes P s).err = 0) ∧
    (t.err ≠ 0 → intoBytes P s = t ∧ t.page = s.page)

/-- R117: PARSE_ALL answers every successfully parsed page, in order, and ends at the clean end-of-data boundary
with ERR 0, or fails with the error that the next PARSE raised. That a failure keeps the pages read out before it
is the model's choice (log entry 20). -/
def Obligations.ParseAllStopsAtTheCleanEnd : Prop :=
  ∀ (P : Params) (s t : State), P.Valid → s.err = 0 → s.pos.toNat ≤ s.flen.toNat →
    (∀ l, parseAll P s = (t, .pages l) →
      parsesTo P s l t ∧ t.pos = t.flen ∧ t.err = 0 ∧ t.fb = s.fb) ∧
    ∀ k l, parseAll P s = (t, .failed k l) → k ≠ 0 ∧ t.err = k ∧ t.pos.toNat < t.flen.toNat ∧
      ∃ u, parsesTo P s l u ∧ execWith P .parse u = .next t

/-- However the bytes of one page are cut into chunks, the reader returns the page that parsing the whole buffer
gives, and consumes it (rule R138 for N = 1). That the source is the list of its answers is the model's choice
(log entry 19). -/
def Obligations.ReaderReassemblesAChunkedPage : Prop :=
  ∀ (P : Params) (bytes : List Byte) (chunks : List (List Byte)) (t : State), P.Valid →
    execWith P .parse (runWith P (.fbAppend bytes) State.reset) = .next t → t.err = 0 →
    t.res.toNat = bytes.length → chunks.flatten = bytes → (∀ c ∈ chunks, c ≠ []) →
    ∃ r, Reader.getPacket P (chunks.map .bytes) Reader.fresh = (.page t.page, r, []) ∧
      r.streamId = some t.streamId ∧ r.isEos = decide (t.pageType = .endOfStream) ∧
      r.isEof = false ∧ r.block.flen = 0 ∧ r.block.pos = 0 ∧ r.block.err = 0

/-- R133, R135: at the source's exhaustion the reader ends cleanly with nothing buffered, and fails with
Truncated on a residual that is not a whole page. The source's form and the `pending` and `failed` variables
are the model's choice (log entries 14, 15, 19). -/
def Obligations.ReaderEndsCleanlyOrTruncated : Prop :=
  ∀ (P : Params) (r : Reader), r.failed = false → r.block.err = 0 → r.endOfInput = false →
    r.pending = [] →
    (r.block.flen.toNat ≤ r.block.pos.toNat →
      ∃ q, Reader.getPacket P [] r = (.noPacketCleanEnd, q, []) ∧ q.isEof = true ∧
        ∀ src, Reader.getPacket P src q = (.noPacketCleanEnd, q, src)) ∧
    (r.block.pos.toNat < r.block.flen.toNat → ¬ wholeAt r.block →
      ∃ q, Reader.getPacket P [] r = (.failed 3, q, []) ∧ q.failed = true)

/-- R144, R146: a seal hands the sink the page in progress, with the type and granule given and the writer's
stream id and packet index, counts once and clears the page when the sink takes the bytes; a sink failure leaves
the page in progress and the counts. The model's choices: that the writer's granule_position stays (log entry
17), the sink's form (log entry 19), and that the seal answers the number of bytes (log entry 27). -/
def Obligations.SealCountsOnceOrKeepsThePage : Prop :=
  ∀ (P : Params) (w : Writer Unit) (sink : SinkAnswers) (g : Word64) (t : PageType), P.Valid →
    w.packetIndex ≠ 0xFFFFFFFF#32 → w.block.err = 0 → w.block.dlen.toNat ≤ 65025 →
    (sink w.sinkWrites = true → ∃ n w', w.seal P sink g t = (.done n, w') ∧
      n = 27 + min 255 (w.block.dlen.toNat / 255 + 1) + w.block.dlen.toNat ∧
      w'.packetIndex = w.packetIndex + 1 ∧ w'.firstSealed = true ∧ w'.eosMarked = false ∧
      w'.streamId = w.streamId ∧ w'.granulePosition = w.granulePosition ∧
      w'.block.dlen = 0 ∧ w'.block.nseg = 0 ∧ w'.block.flen = 0 ∧ w'.block.err = 0 ∧
      w'.bytesWritten = w.bytesWritten +
        (match P.bytesWrittenCounts with
          | .payload => w.block.dlen.toNat
          | .serialized => n) ∧
      ∃ bytes, bytes.length = n ∧ w'.accepted = w.accepted ++ [bytes] ∧
        bytes.take 4 = P.magic ∧ bytes[4]? = some 0 ∧ bytes[5]? = some (typeCode P t) ∧
        fieldValue P ((bytes.drop 6).take 8) = g.toNat ∧
        fieldValue P ((bytes.drop 14).take 4) = w.streamId.toNat ∧
        fieldValue P ((bytes.drop 18).take 4) = w.packetIndex.toNat ∧
        fieldValue P ((bytes.drop 22).take 4) = (crc32 P (zeroChecksum bytes)).toNat ∧
        ∃ table, lace w.block.dlen.toNat = some table ∧
          bytes[26]? = some (BitVec.ofNat 8 table.length) ∧
          bytes.drop 27 = table ++ w.block.payload) ∧
    (sink w.sinkWrites = false → ∃ w', w.seal P sink g t = (.failed 5, w') ∧
      w'.block.dlen = w.block.dlen ∧ w'.block.data = w.block.data ∧
      w'.packetIndex = w.packetIndex ∧ w'.bytesWritten = w.bytesWritten ∧
      w'.firstSealed = w.firstSealed ∧ w'.eosMarked = w.eosMarked ∧
      w'.accepted = w.accepted ∧ w'.block.err = 0)

/-- R143, R145, R148: the first page of a writer is BeginOfStream; the mark and the reset of a writer. -/
def Obligations.WriterFirstPageBeginsTheStream : Prop :=
  ∀ (w : Writer Unit) (eos : Bool),
    (w.firstSealed = false → w.pickType eos = .beginOfStream) ∧
    (w.firstSealed = true → w.pickType true = .endOfStream ∧ w.pickType false = .continuation) ∧
    w.markEndOfStream = { w with eosMarked := true } ∧
    w.restart.packetIndex = 0 ∧ w.restart.bytesWritten = 0 ∧ w.restart.streamId = w.streamId ∧
    w.restart.firstSealed = false ∧ w.restart.eosMarked = false ∧
    w.restart.granulePosition = w.granulePosition ∧
    (w.block.err = 0 → w.restart.block.dlen = 0 ∧ w.restart.block.nseg = 0)

/-- Capacity-many bytes and then one more give two sealed pages: a full one, BeginOfStream, and one with the
single remaining byte when it is sealed (rules R141, R150), EndOfStream if asked and else Continuation (rule
R143). The model's choices: the sink's form (log entry 19), and that the seal answers 29, the number of bytes of
its page (log entry 27). -/
def Obligations.FullPageIsSealedByItself : Prop :=
  ∀ (P : Params) (bytes : List Byte) (b : Byte) (sid : Word32) (g : Word64) (eos : Bool), P.Valid →
    bytes.length = 65025 →
    ∃ w1 w2 w3 p q,
      Writer.write P (fun _ => true) none bytes (Writer.fresh sid ()) = (.done 65025, w1) ∧
      Writer.write P (fun _ => true) none [b] w1 = (.done 1, w2) ∧
      Writer.sealPacket P (fun _ => true) g eos w2 = (.done 29, w3) ∧
      w1.accepted = [p] ∧ w2.accepted = [p] ∧ w3.accepted = [p, q] ∧
      p.length = 65307 ∧ p[5]? = some P.codeBeginOfStream ∧
      (p.drop 27).take 255 = List.replicate 255 255#8 ∧ p.drop 282 = bytes ∧
      q.length = 29 ∧ q.drop 28 = [b] ∧ q[5]? = some (if eos then P.codeEndOfStream else P.codeContinuation) ∧
      w3.packetIndex = 2
end

