-- ==== Sys2Proof/Laws/Memory.lean ====
section
/-!
SUPPORT. The laws of the memories: a read after a write, the canonical form kept by a write, and the range
of the addresses. They hold of every list, canonical or not, but for the form itself.
-/

namespace Sys2Proof.Machine

variable {α : Type}

theorem entryAt_append (l r : List (Nat × α)) (a : Nat) :
    entryAt (l ++ r) a = (entryAt l a).or (entryAt r a) := by
  induction l with
  | nil => simp [entryAt]
  | cons c l ih => by_cases h : c.1 = a <;> simp [entryAt, h, ih]

theorem entryAt_filter (p : Nat → Bool) (m : List (Nat × α)) (a : Nat) :
    entryAt (m.filter fun c => p c.1) a = if p a then entryAt m a else none := by
  induction m with
  | nil => simp [entryAt]
  | cons c m ih =>
    rw [List.filter_cons]
    by_cases hk : c.1 = a
    · subst hk
      by_cases hp : p c.1 <;> simp [entryAt, hp, ih]
    · by_cases hp : p c.1 <;> simp [entryAt, hp, hk, ih]

theorem entryAt_entriesFrom (vs : List α) (base a : Nat) :
    entryAt (entriesFrom base vs) a = if base ≤ a then vs[a - base]? else none := by
  induction vs generalizing base with
  | nil => simp [entriesFrom, entryAt]
  | cons v vs ih =>
    by_cases h : base = a
    · subst h
      simp [entriesFrom, entryAt]
    · by_cases hle : base ≤ a
      · have h1 : a - base = (a - (base + 1)) + 1 := by omega
        have h2 : base + 1 ≤ a := by omega
        simp [entriesFrom, entryAt, h, ih, hle, h1, h2]
      · have h2 : ¬ base + 1 ≤ a := by omega
        simp [entriesFrom, entryAt, h, ih, hle, h2]

/-- READ AFTER WRITE: the written string in its range, what stood there before outside it. -/
theorem entryAt_writeEntries (m : List (Nat × α)) (base : Nat) (vs : List α) (a : Nat) :
    entryAt (writeEntries m base vs) a =
      if base ≤ a ∧ a < base + vs.length then vs[a - base]? else entryAt m a := by
  have hlow := entryAt_filter (fun k => decide (k < base)) m a
  have hhigh := entryAt_filter (fun k => decide (base + vs.length ≤ k)) m a
  simp only [writeEntries, entryAt_append, entryAt_entriesFrom, hlow, hhigh, decide_eq_true_eq]
  by_cases h1 : a < base
  · have h2 : ¬ base ≤ a := by omega
    have h4 : ¬ base + vs.length ≤ a := by omega
    simp [h1, h2, h4]
  · have h2 : base ≤ a := by omega
    by_cases h3 : a < base + vs.length
    · have h4 : ¬ base + vs.length ≤ a := by omega
      simp [h1, h2, h3, h4]
    · have h4 : base + vs.length ≤ a := by omega
      have h5 : vs[a - base]? = none := List.getElem?_eq_none (by omega)
      simp [h1, h2, h3, h4, h5]

theorem entryAt_writeEntries_inside {m : List (Nat × α)} {base a : Nat} {vs : List α}
    (h1 : base ≤ a) (h2 : a < base + vs.length) :
    entryAt (writeEntries m base vs) a = vs[a - base]? := by
  rw [entryAt_writeEntries, if_pos ⟨h1, h2⟩]

theorem entryAt_writeEntries_outside {m : List (Nat × α)} {base a : Nat} {vs : List α}
    (h : a < base ∨ base + vs.length ≤ a) :
    entryAt (writeEntries m base vs) a = entryAt m a := by
  rw [entryAt_writeEntries, if_neg (by omega)]

/-- A written cell stays written. -/
theorem isSome_entryAt_writeEntries {m : List (Nat × α)} {base a : Nat} {vs : List α}
    (h : (entryAt m a).isSome ∨ (base ≤ a ∧ a < base + vs.length)) :
    (entryAt (writeEntries m base vs) a).isSome := by
  rw [entryAt_writeEntries]
  split
  · next hr => rw [List.getElem?_eq_getElem (by omega)]; rfl
  · next hr => rcases h with h | h
               · exact h
               · exact absurd h hr

theorem mem_entriesFrom {vs : List α} {base : Nat} {c : Nat × α} (h : c ∈ entriesFrom base vs) :
    base ≤ c.1 ∧ c.1 < base + vs.length := by
  induction vs generalizing base with
  | nil => simp [entriesFrom] at h
  | cons v vs ih =>
    rcases List.mem_cons.mp h with h | h
    · subst h
      simp
    · have := ih h
      simp only [List.length_cons]
      omega

/-- Every entry after a write was there before or is of the written string. -/
theorem mem_writeEntries {m : List (Nat × α)} {base : Nat} {vs : List α} {c : Nat × α}
    (h : c ∈ writeEntries m base vs) : c ∈ m ∨ (base ≤ c.1 ∧ c.1 < base + vs.length) := by
  simp only [writeEntries, List.mem_append, List.mem_filter] at h
  rcases h with (h | h) | h
  · exact .inl h.1
  · exact .inr (mem_entriesFrom h)
  · exact .inl h.1

/-- A write keeps the addresses below a bound. -/
theorem writeEntries_lt {m : List (Nat × α)} {base bound : Nat} {vs : List α}
    (hm : ∀ c ∈ m, c.1 < bound) (hb : vs.length = 0 ∨ base + vs.length ≤ bound) :
    ∀ c ∈ writeEntries m base vs, c.1 < bound := by
  intro c hc
  rcases mem_writeEntries hc with h | h
  · exact hm c h
  · omega

theorem entriesFrom_wf (vs : List α) (base : Nat) : Memory.wf (entriesFrom base vs) := by
  induction vs generalizing base with
  | nil => exact List.Pairwise.nil
  | cons v vs ih =>
    refine List.Pairwise.cons (fun c hc => ?_) (ih (base + 1))
    have := mem_entriesFrom hc
    simp only
    omega

/-- A write keeps the canonical form. -/
theorem writeEntries_wf {m : List (Nat × α)} (h : Memory.wf m) (base : Nat) (vs : List α) :
    Memory.wf (writeEntries m base vs) := by
  simp only [Memory.wf, writeEntries, List.pairwise_append, List.mem_append, List.mem_filter,
    decide_eq_true_eq]
  refine ⟨⟨h.filter _, entriesFrom_wf vs base, ?_⟩, h.filter _, ?_⟩
  · intro a ha b hb
    have := mem_entriesFrom hb
    omega
  · rintro a (ha | ha) b hb
    · omega
    · have := mem_entriesFrom ha
      omega

/-- Two canonical memories with the same content at every address are the same data. -/
theorem Memory.wf_ext {m n : List (Nat × α)} (hm : Memory.wf m) (hn : Memory.wf n)
    (h : ∀ a, entryAt m a = entryAt n a) : m = n := by
  have none_of : ∀ {l : List (Nat × α)} {a : Nat}, (∀ c ∈ l, a < c.1) → entryAt l a = none := by
    intro l a hl
    induction l with
    | nil => rfl
    | cons c l ih =>
      have h1 := hl c (by simp)
      have h2 : c.1 ≠ a := by omega
      simp only [entryAt, h2, if_false]
      exact ih fun d hd => hl d (by simp [hd])
  induction m generalizing n with
  | nil =>
    cases n with
    | nil => rfl
    | cons d n => simpa [entryAt] using h d.1
  | cons c m ih =>
    cases n with
    | nil => simpa [entryAt] using h c.1
    | cons d n =>
      have hm1 : ∀ e ∈ m, c.1 < e.1 := (List.pairwise_cons.mp hm).1
      have hn1 : ∀ e ∈ n, d.1 < e.1 := (List.pairwise_cons.mp hn).1
      have key : c.1 = d.1 := by
        rcases Nat.lt_trichotomy c.1 d.1 with hlt | heq | hgt
        · have := h c.1
          rw [none_of (l := d :: n)] at this
          · simp [entryAt] at this
          · intro e he
            rcases List.mem_cons.mp he with rfl | he
            · exact hlt
            · exact Nat.lt_trans hlt (hn1 e he)
        · exact heq
        · have := h d.1
          rw [none_of (l := c :: m)] at this
          · simp [entryAt] at this
          · intro e he
            rcases List.mem_cons.mp he with rfl | he
            · exact hgt
            · exact Nat.lt_trans hgt (hm1 e he)
      have hval := h c.1
      simp only [entryAt, if_true, key] at hval
      have hcd : c = d := Prod.ext key (Option.some.inj hval)
      subst hcd
      refine congrArg _ (ih hm.of_cons hn.of_cons fun a => ?_)
      by_cases ha : c.1 = a
      · subst ha
        rw [none_of fun e he => hm1 e he, none_of fun e he => hn1 e he]
      · have := h a
        simpa [entryAt, ha] using this

/-- Reading a byte after a write. -/
theorem readByte_writeEntries (sp : Space) (m : List Host.Cell) (base : Nat) (vs : List Byte)
    (a : Nat) :
    readByte sp (writeEntries m base vs) a =
      if base ≤ a ∧ a < base + vs.length then vs[a - base]?.getD 0 else readByte sp m a := by
  unfold readByte
  rw [entryAt_writeEntries]
  split
  · next h => rw [List.getElem?_eq_getElem (by omega)]; rfl
  · rfl

@[simp] theorem readBytes_length (sp : Space) (m : List Host.Cell) (a n : Nat) :
    (readBytes sp m a n).length = n := by
  simp [readBytes]

theorem readBytes_getElem? (sp : Space) (m : List Host.Cell) (a n i : Nat) :
    (readBytes sp m a n)[i]? = if i < n then some (readByte sp m (a + i)) else none := by
  by_cases h : i < n
  · simp [readBytes, h]
  · simp [readBytes, h]

/-- A string is read as far as its bytes are read. -/
theorem readBytes_congr {sp : Space} {m m' : List Host.Cell} {a a' n : Nat}
    (h : ∀ i < n, readByte sp m (a + i) = readByte sp m' (a' + i)) :
    readBytes sp m a n = readBytes sp m' a' n := by
  unfold readBytes
  exact List.map_congr_left fun i hi => h i (List.mem_range.mp hi)

/-- Reading back a written string. -/
theorem readBytes_writeEntries_same (sp : Space) (m : List Host.Cell) (base : Nat) (vs : List Byte) :
    readBytes sp (writeEntries m base vs) base vs.length = vs := by
  apply List.ext_getElem?
  intro i
  rw [readBytes_getElem?]
  by_cases h : i < vs.length
  · rw [if_pos h, readByte_writeEntries, if_pos ⟨by omega, by omega⟩]
    simp [List.getElem?_eq_getElem h]
  · rw [if_neg h, List.getElem?_eq_none (by omega)]

/-- A string read from two adjacent parts. -/
theorem readBytes_append (sp : Space) (m : List Host.Cell) (a n k : Nat) :
    readBytes sp m a (n + k) = readBytes sp m a n ++ readBytes sp m (a + n) k := by
  simp [readBytes, List.range_add, Nat.add_assoc]

end Sys2Proof.Machine
end

