-- ==== Sys2Proof/Laws/State.lean ====
section
/-!
SUPPORT. The fields of a state after each shared update, one lemma per field, true by unfolding the update
once, so that no later proof unfolds a record update; and the two flags after each update of STATUS.
-/

namespace Sys2Proof.Machine

@[simp] theorem raise_pageType (k : ErrKind) (s : State) : (raise k s).pageType = s.pageType := rfl
@[simp] theorem raise_granule (k : ErrKind) (s : State) : (raise k s).granule = s.granule := rfl
@[simp] theorem raise_streamId (k : ErrKind) (s : State) : (raise k s).streamId = s.streamId := rfl
@[simp] theorem raise_packetIndex (k : ErrKind) (s : State) : (raise k s).packetIndex = s.packetIndex := rfl
@[simp] theorem raise_checksum (k : ErrKind) (s : State) : (raise k s).checksum = s.checksum := rfl
@[simp] theorem raise_nseg (k : ErrKind) (s : State) : (raise k s).nseg = s.nseg := rfl
@[simp] theorem raise_dlen (k : ErrKind) (s : State) : (raise k s).dlen = s.dlen := rfl
@[simp] theorem raise_segtab (k : ErrKind) (s : State) : (raise k s).segtab = s.segtab := rfl
@[simp] theorem raise_data (k : ErrKind) (s : State) : (raise k s).data = s.data := rfl
@[simp] theorem raise_fb (k : ErrKind) (s : State) : (raise k s).fb = s.fb := rfl
@[simp] theorem raise_flen (k : ErrKind) (s : State) : (raise k s).flen = s.flen := rfl
@[simp] theorem raise_pos (k : ErrKind) (s : State) : (raise k s).pos = s.pos := rfl
@[simp] theorem raise_subseg (k : ErrKind) (s : State) : (raise k s).subseg = s.subseg := rfl
@[simp] theorem raise_nsub (k : ErrKind) (s : State) : (raise k s).nsub = s.nsub := rfl
@[simp] theorem raise_arg (k : ErrKind) (s : State) : (raise k s).arg = s.arg := rfl
@[simp] theorem raise_res (k : ErrKind) (s : State) : (raise k s).res = s.res := rfl
@[simp] theorem raise_err (k : ErrKind) (s : State) : (raise k s).err = k.code := rfl
@[simp] theorem raise_status (k : ErrKind) (s : State) : (raise k s).status = s.status := rfl
@[simp] theorem raise_accesses (k : ErrKind) (s : State) : (raise k s).accesses = s.accesses := rfl
@[simp] theorem raise_hostData (k : ErrKind) (s : State) : (raise k s).hostData = s.hostData := rfl
@[simp] theorem raise_freeReads (k : ErrKind) (s : State) : (raise k s).freeReads = s.freeReads := rfl

@[simp] theorem clearError_pageType (s : State) : (clearError s).pageType = s.pageType := rfl
@[simp] theorem clearError_granule (s : State) : (clearError s).granule = s.granule := rfl
@[simp] theorem clearError_streamId (s : State) : (clearError s).streamId = s.streamId := rfl
@[simp] theorem clearError_packetIndex (s : State) : (clearError s).packetIndex = s.packetIndex := rfl
@[simp] theorem clearError_checksum (s : State) : (clearError s).checksum = s.checksum := rfl
@[simp] theorem clearError_nseg (s : State) : (clearError s).nseg = s.nseg := rfl
@[simp] theorem clearError_dlen (s : State) : (clearError s).dlen = s.dlen := rfl
@[simp] theorem clearError_segtab (s : State) : (clearError s).segtab = s.segtab := rfl
@[simp] theorem clearError_data (s : State) : (clearError s).data = s.data := rfl
@[simp] theorem clearError_fb (s : State) : (clearError s).fb = s.fb := rfl
@[simp] theorem clearError_flen (s : State) : (clearError s).flen = s.flen := rfl
@[simp] theorem clearError_pos (s : State) : (clearError s).pos = s.pos := rfl
@[simp] theorem clearError_subseg (s : State) : (clearError s).subseg = s.subseg := rfl
@[simp] theorem clearError_nsub (s : State) : (clearError s).nsub = s.nsub := rfl
@[simp] theorem clearError_arg (s : State) : (clearError s).arg = s.arg := rfl
@[simp] theorem clearError_res (s : State) : (clearError s).res = s.res := rfl
@[simp] theorem clearError_err (s : State) : (clearError s).err = 0 := rfl
@[simp] theorem clearError_status (s : State) : (clearError s).status = s.status := rfl
@[simp] theorem clearError_accesses (s : State) : (clearError s).accesses = s.accesses := rfl
@[simp] theorem clearError_hostData (s : State) : (clearError s).hostData = s.hostData := rfl
@[simp] theorem clearError_freeReads (s : State) : (clearError s).freeReads = s.freeReads := rfl

@[simp] theorem setLenv_pageType (b : Bool) (s : State) : (setLenv b s).pageType = s.pageType := rfl
@[simp] theorem setLenv_granule (b : Bool) (s : State) : (setLenv b s).granule = s.granule := rfl
@[simp] theorem setLenv_streamId (b : Bool) (s : State) : (setLenv b s).streamId = s.streamId := rfl
@[simp] theorem setLenv_packetIndex (b : Bool) (s : State) : (setLenv b s).packetIndex = s.packetIndex := rfl
@[simp] theorem setLenv_checksum (b : Bool) (s : State) : (setLenv b s).checksum = s.checksum := rfl
@[simp] theorem setLenv_nseg (b : Bool) (s : State) : (setLenv b s).nseg = s.nseg := rfl
@[simp] theorem setLenv_dlen (b : Bool) (s : State) : (setLenv b s).dlen = s.dlen := rfl
@[simp] theorem setLenv_segtab (b : Bool) (s : State) : (setLenv b s).segtab = s.segtab := rfl
@[simp] theorem setLenv_data (b : Bool) (s : State) : (setLenv b s).data = s.data := rfl
@[simp] theorem setLenv_fb (b : Bool) (s : State) : (setLenv b s).fb = s.fb := rfl
@[simp] theorem setLenv_flen (b : Bool) (s : State) : (setLenv b s).flen = s.flen := rfl
@[simp] theorem setLenv_pos (b : Bool) (s : State) : (setLenv b s).pos = s.pos := rfl
@[simp] theorem setLenv_subseg (b : Bool) (s : State) : (setLenv b s).subseg = s.subseg := rfl
@[simp] theorem setLenv_nsub (b : Bool) (s : State) : (setLenv b s).nsub = s.nsub := rfl
@[simp] theorem setLenv_arg (b : Bool) (s : State) : (setLenv b s).arg = s.arg := rfl
@[simp] theorem setLenv_res (b : Bool) (s : State) : (setLenv b s).res = s.res := rfl
@[simp] theorem setLenv_err (b : Bool) (s : State) : (setLenv b s).err = s.err := rfl
@[simp] theorem setLenv_accesses (b : Bool) (s : State) : (setLenv b s).accesses = s.accesses := rfl
@[simp] theorem setLenv_hostData (b : Bool) (s : State) : (setLenv b s).hostData = s.hostData := rfl
@[simp] theorem setLenv_freeReads (b : Bool) (s : State) : (setLenv b s).freeReads = s.freeReads := rfl

@[simp] theorem setOpen_pageType (b : Bool) (s : State) : (setOpen b s).pageType = s.pageType := rfl
@[simp] theorem setOpen_granule (b : Bool) (s : State) : (setOpen b s).granule = s.granule := rfl
@[simp] theorem setOpen_streamId (b : Bool) (s : State) : (setOpen b s).streamId = s.streamId := rfl
@[simp] theorem setOpen_packetIndex (b : Bool) (s : State) : (setOpen b s).packetIndex = s.packetIndex := rfl
@[simp] theorem setOpen_checksum (b : Bool) (s : State) : (setOpen b s).checksum = s.checksum := rfl
@[simp] theorem setOpen_nseg (b : Bool) (s : State) : (setOpen b s).nseg = s.nseg := rfl
@[simp] theorem setOpen_dlen (b : Bool) (s : State) : (setOpen b s).dlen = s.dlen := rfl
@[simp] theorem setOpen_segtab (b : Bool) (s : State) : (setOpen b s).segtab = s.segtab := rfl
@[simp] theorem setOpen_data (b : Bool) (s : State) : (setOpen b s).data = s.data := rfl
@[simp] theorem setOpen_fb (b : Bool) (s : State) : (setOpen b s).fb = s.fb := rfl
@[simp] theorem setOpen_flen (b : Bool) (s : State) : (setOpen b s).flen = s.flen := rfl
@[simp] theorem setOpen_pos (b : Bool) (s : State) : (setOpen b s).pos = s.pos := rfl
@[simp] theorem setOpen_subseg (b : Bool) (s : State) : (setOpen b s).subseg = s.subseg := rfl
@[simp] theorem setOpen_nsub (b : Bool) (s : State) : (setOpen b s).nsub = s.nsub := rfl
@[simp] theorem setOpen_arg (b : Bool) (s : State) : (setOpen b s).arg = s.arg := rfl
@[simp] theorem setOpen_res (b : Bool) (s : State) : (setOpen b s).res = s.res := rfl
@[simp] theorem setOpen_err (b : Bool) (s : State) : (setOpen b s).err = s.err := rfl
@[simp] theorem setOpen_accesses (b : Bool) (s : State) : (setOpen b s).accesses = s.accesses := rfl
@[simp] theorem setOpen_hostData (b : Bool) (s : State) : (setOpen b s).hostData = s.hostData := rfl
@[simp] theorem setOpen_freeReads (b : Bool) (s : State) : (setOpen b s).freeReads = s.freeReads := rfl

@[simp] theorem dropSubSegs_pageType (s : State) : (dropSubSegs s).pageType = s.pageType := rfl
@[simp] theorem dropSubSegs_granule (s : State) : (dropSubSegs s).granule = s.granule := rfl
@[simp] theorem dropSubSegs_streamId (s : State) : (dropSubSegs s).streamId = s.streamId := rfl
@[simp] theorem dropSubSegs_packetIndex (s : State) : (dropSubSegs s).packetIndex = s.packetIndex := rfl
@[simp] theorem dropSubSegs_checksum (s : State) : (dropSubSegs s).checksum = s.checksum := rfl
@[simp] theorem dropSubSegs_nseg (s : State) : (dropSubSegs s).nseg = s.nseg := rfl
@[simp] theorem dropSubSegs_dlen (s : State) : (dropSubSegs s).dlen = s.dlen := rfl
@[simp] theorem dropSubSegs_segtab (s : State) : (dropSubSegs s).segtab = s.segtab := rfl
@[simp] theorem dropSubSegs_data (s : State) : (dropSubSegs s).data = s.data := rfl
@[simp] theorem dropSubSegs_fb (s : State) : (dropSubSegs s).fb = s.fb := rfl
@[simp] theorem dropSubSegs_flen (s : State) : (dropSubSegs s).flen = s.flen := rfl
@[simp] theorem dropSubSegs_pos (s : State) : (dropSubSegs s).pos = s.pos := rfl
@[simp] theorem dropSubSegs_subseg (s : State) : (dropSubSegs s).subseg = s.subseg := rfl
@[simp] theorem dropSubSegs_nsub (s : State) : (dropSubSegs s).nsub = 0 := rfl
@[simp] theorem dropSubSegs_arg (s : State) : (dropSubSegs s).arg = s.arg := rfl
@[simp] theorem dropSubSegs_res (s : State) : (dropSubSegs s).res = s.res := rfl
@[simp] theorem dropSubSegs_err (s : State) : (dropSubSegs s).err = s.err := rfl
@[simp] theorem dropSubSegs_accesses (s : State) : (dropSubSegs s).accesses = s.accesses := rfl
@[simp] theorem dropSubSegs_hostData (s : State) : (dropSubSegs s).hostData = s.hostData := rfl
@[simp] theorem dropSubSegs_freeReads (s : State) : (dropSubSegs s).freeReads = s.freeReads := rfl

@[simp] theorem answer_pageType (d : ReadData) (s : State) : (answer d s).pageType = s.pageType := rfl
@[simp] theorem answer_granule (d : ReadData) (s : State) : (answer d s).granule = s.granule := rfl
@[simp] theorem answer_streamId (d : ReadData) (s : State) : (answer d s).streamId = s.streamId := rfl
@[simp] theorem answer_packetIndex (d : ReadData) (s : State) : (answer d s).packetIndex = s.packetIndex := rfl
@[simp] theorem answer_checksum (d : ReadData) (s : State) : (answer d s).checksum = s.checksum := rfl
@[simp] theorem answer_nseg (d : ReadData) (s : State) : (answer d s).nseg = s.nseg := rfl
@[simp] theorem answer_dlen (d : ReadData) (s : State) : (answer d s).dlen = s.dlen := rfl
@[simp] theorem answer_segtab (d : ReadData) (s : State) : (answer d s).segtab = s.segtab := rfl
@[simp] theorem answer_data (d : ReadData) (s : State) : (answer d s).data = s.data := rfl
@[simp] theorem answer_fb (d : ReadData) (s : State) : (answer d s).fb = s.fb := rfl
@[simp] theorem answer_flen (d : ReadData) (s : State) : (answer d s).flen = s.flen := rfl
@[simp] theorem answer_pos (d : ReadData) (s : State) : (answer d s).pos = s.pos := rfl
@[simp] theorem answer_subseg (d : ReadData) (s : State) : (answer d s).subseg = s.subseg := rfl
@[simp] theorem answer_nsub (d : ReadData) (s : State) : (answer d s).nsub = s.nsub := rfl
@[simp] theorem answer_arg (d : ReadData) (s : State) : (answer d s).arg = s.arg := rfl
@[simp] theorem answer_res (d : ReadData) (s : State) : (answer d s).res = s.res := rfl
@[simp] theorem answer_err (d : ReadData) (s : State) : (answer d s).err = s.err := rfl
@[simp] theorem answer_status (d : ReadData) (s : State) : (answer d s).status = s.status := rfl
@[simp] theorem answer_accesses (d : ReadData) (s : State) : (answer d s).accesses = s.accesses := rfl
@[simp] theorem answer_hostData (d : ReadData) (s : State) : (answer d s).hostData = some d := rfl
@[simp] theorem answer_freeReads (d : ReadData) (s : State) : (answer d s).freeReads = s.freeReads := rfl

@[simp] theorem answerFree_pageType (f : Word64 → ReadData) (s : State) : (answerFree f s).pageType = s.pageType := rfl
@[simp] theorem answerFree_granule (f : Word64 → ReadData) (s : State) : (answerFree f s).granule = s.granule := rfl
@[simp] theorem answerFree_streamId (f : Word64 → ReadData) (s : State) : (answerFree f s).streamId = s.streamId := rfl
@[simp] theorem answerFree_packetIndex (f : Word64 → ReadData) (s : State) : (answerFree f s).packetIndex = s.packetIndex := rfl
@[simp] theorem answerFree_checksum (f : Word64 → ReadData) (s : State) : (answerFree f s).checksum = s.checksum := rfl
@[simp] theorem answerFree_nseg (f : Word64 → ReadData) (s : State) : (answerFree f s).nseg = s.nseg := rfl
@[simp] theorem answerFree_dlen (f : Word64 → ReadData) (s : State) : (answerFree f s).dlen = s.dlen := rfl
@[simp] theorem answerFree_segtab (f : Word64 → ReadData) (s : State) : (answerFree f s).segtab = s.segtab := rfl
@[simp] theorem answerFree_data (f : Word64 → ReadData) (s : State) : (answerFree f s).data = s.data := rfl
@[simp] theorem answerFree_fb (f : Word64 → ReadData) (s : State) : (answerFree f s).fb = s.fb := rfl
@[simp] theorem answerFree_flen (f : Word64 → ReadData) (s : State) : (answerFree f s).flen = s.flen := rfl
@[simp] theorem answerFree_pos (f : Word64 → ReadData) (s : State) : (answerFree f s).pos = s.pos := rfl
@[simp] theorem answerFree_subseg (f : Word64 → ReadData) (s : State) : (answerFree f s).subseg = s.subseg := rfl
@[simp] theorem answerFree_nsub (f : Word64 → ReadData) (s : State) : (answerFree f s).nsub = s.nsub := rfl
@[simp] theorem answerFree_arg (f : Word64 → ReadData) (s : State) : (answerFree f s).arg = s.arg := rfl
@[simp] theorem answerFree_res (f : Word64 → ReadData) (s : State) : (answerFree f s).res = s.res := rfl
@[simp] theorem answerFree_err (f : Word64 → ReadData) (s : State) : (answerFree f s).err = s.err := rfl
@[simp] theorem answerFree_status (f : Word64 → ReadData) (s : State) : (answerFree f s).status = s.status := rfl
@[simp] theorem answerFree_accesses (f : Word64 → ReadData) (s : State) : (answerFree f s).accesses = s.accesses := rfl
@[simp] theorem answerFree_hostData (f : Word64 → ReadData) (s : State) : (answerFree f s).hostData = some (f (Config.unspecifiedRead s.freeReads)) := rfl
@[simp] theorem answerFree_freeReads (f : Word64 → ReadData) (s : State) : (answerFree f s).freeReads = s.freeReads + 1 := rfl

/-- Reading one flag of STATUS after writing the other, or the same. -/
theorem status_bits (x : BitVec 2) (b : Bool) :
    ((x &&& 0b10#2) ||| (if b then 0b01#2 else 0b00#2)).getLsbD 0 = b ∧
      ((x &&& 0b10#2) ||| (if b then 0b01#2 else 0b00#2)).getLsbD 1 = x.getLsbD 1 ∧
      ((x &&& 0b01#2) ||| (if b then 0b10#2 else 0b00#2)).getLsbD 1 = b ∧
      ((x &&& 0b01#2) ||| (if b then 0b10#2 else 0b00#2)).getLsbD 0 = x.getLsbD 0 := by
  revert x b
  decide

@[simp] theorem setLenv_lenv (b : Bool) (s : State) : (setLenv b s).lenv = b :=
  (status_bits s.status b).1

@[simp] theorem setLenv_openRun (b : Bool) (s : State) : (setLenv b s).openRun = s.openRun :=
  (status_bits s.status b).2.1

@[simp] theorem setOpen_openRun (b : Bool) (s : State) : (setOpen b s).openRun = b :=
  (status_bits s.status b).2.2.1

@[simp] theorem setOpen_lenv (b : Bool) (s : State) : (setOpen b s).lenv = s.lenv :=
  (status_bits s.status b).2.2.2

@[simp] theorem dropSubSegs_openRun (s : State) : (dropSubSegs s).openRun = false :=
  setOpen_openRun false _

@[simp] theorem dropSubSegs_lenv (s : State) : (dropSubSegs s).lenv = s.lenv :=
  setOpen_lenv false _

/-- The two flags determine STATUS (rule R25). -/
theorem status_ext {s t : State} (h0 : s.lenv = t.lenv) (h1 : s.openRun = t.openRun) :
    s.status = t.status := by
  have key : ∀ x y : BitVec 2, x.getLsbD 0 = y.getLsbD 0 → x.getLsbD 1 = y.getLsbD 1 → x = y := by
    decide
  exact key _ _ h0 h1

end Sys2Proof.Machine
end

