-- ==== Sys2Proof/Laws/Operands.lean ====
section
/-!
SUPPORT. The laws of the shared operations and operand forms: what the gate and a checked operation can
answer, that no operation stops, that the machine is the case of the spec's parameters, the field assembly and the type-flags byte, and the lengths.
-/

namespace Sys2Proof.Machine

/-! ### The gate and the checks (rules R80, R165, R166) -/

theorem gated_of_clear {f : State → State} {s : State} (h : s.err = 0) : gated f s = .next (f s) := by
  rw [gated, if_pos h]

theorem gated_of_error {f : State → State} {s : State} (h : s.err ≠ 0) : gated f s = .next s := by
  rw [gated, if_neg h]

/-- Everything a gated operation can answer. -/
theorem gated_cases {f : State → State} {s t : State} (h : gated f s = .next t) :
    (s.err = 0 ∧ t = f s) ∨ (s.err ≠ 0 ∧ t = s) := by
  by_cases he : s.err = 0
  · rw [gated_of_clear he] at h
    exact .inl ⟨he, (Host.Outcome.next.inj h).symm⟩
  · rw [gated_of_error he] at h
    exact .inr ⟨he, (Host.Outcome.next.inj h).symm⟩

@[simp] theorem checked_ok {α : Type} (a : α) (c : α → State → State) (s : State) :
    checked (.ok a) c s = c a s := rfl

@[simp] theorem checked_error {α : Type} (k : ErrKind) (c : α → State → State) (s : State) :
    checked (.error k) c s = raise k s := rfl

/-- Everything a checked operation can do: raise the kind its check names, or commit. -/
theorem checked_cases {α : Type} (e : Except ErrKind α) (c : α → State → State) (s : State) :
    (∃ k, e = .error k ∧ checked e c s = raise k s) ∨ (∃ a, e = .ok a ∧ checked e c s = c a s) := by
  cases e with
  | error k => exact .inl ⟨k, rfl, rfl⟩
  | ok a => exact .inr ⟨a, rfl, rfl⟩

/-- The effect of an operation whose gate is open, under given parameters: CLR_ERR and RESET are never gated. -/
def effect (P : Params) : Instr → State → State
  | .new => opNew
  | .clear => opClear
  | .write w => opWrite w
  | .getSegments => opGetSegments
  | .lace => opLace
  | .getChecksum => opGetChecksum P
  | .fillChecksum => opFillChecksum P
  | .getLength => opGetLength
  | .parse => opParse P
  | .serialize => opSerialize P
  | .fbReset => opFbReset
  | .fbAppend w => opFbAppend P w
  | .fbCompact => opFbCompact
  | .clrErr => clearError
  | .reset => opReset

/-- exec is the case of the values that the spec takes for the parameters (rule R8). -/
theorem execWith_params : execWith Config.params = exec := by
  funext i s
  cases i <;> rfl

theorem runWith_params : runWith Config.params = run := by
  funext i s
  rw [runWith, run, execWith_params]

theorem performWith_params : performWith Config.params = perform := by
  funext a s
  rw [performWith, perform, execWith_params]

theorem stepWith_params : stepWith Config.params = step := by
  funext s
  rw [stepWith, step, performWith_params]

/-- An operation issued while ERR is 0 answers its effect, under any parameters. -/
theorem execWith_of_clear (P : Params) {s : State} (h : s.err = 0) (i : Instr) :
    execWith P i s = .next (effect P i s) := by
  cases i <;> first | exact gated_of_clear h | rfl

theorem exec_of_clear {s : State} (h : s.err = 0) (i : Instr) :
    exec i s = .next (effect Config.params i s) :=
  execWith_params ▸ execWith_of_clear Config.params h i

/-- An operation that does not answer its effect is gated and changes nothing. -/
theorem execWith_cases (P : Params) (i : Instr) (s : State) :
    execWith P i s = .next (effect P i s) ∨ (s.err ≠ 0 ∧ execWith P i s = .next s) := by
  by_cases h : s.err = 0
  · exact .inl (execWith_of_clear P h i)
  · cases i <;> first | exact .inr ⟨h, gated_of_error h⟩ | exact .inl rfl

theorem exec_cases (i : Instr) (s : State) :
    exec i s = .next (effect Config.params i s) ∨ (s.err ≠ 0 ∧ exec i s = .next s) :=
  execWith_params ▸ execWith_cases Config.params i s

@[simp] theorem settle_next (t s : State) : settle (.next t) s = t := rfl

/-- While ERR is 0 the block after an operation is the operation's effect. -/
theorem runWith_of_clear (P : Params) {s : State} (h : s.err = 0) (i : Instr) :
    runWith P i s = effect P i s := by
  rw [runWith, execWith_of_clear P h, settle_next]

theorem ErrKind.code_ne_zero (k : ErrKind) : k.code ≠ 0 := by
  cases k <;> decide

theorem ErrKind.code_le (k : ErrKind) : k.code.toNat ≤ 8 := by
  cases k <;> decide

/-! ### Lengths (rules R85, R96, R110) -/

@[simp] theorem State.table_length (s : State) : s.table.length = s.nseg.toNat := by
  simp [State.table]

@[simp] theorem State.payload_length (s : State) : s.payload.length = s.dlen.toNat := by
  simp [State.payload]

@[simp] theorem State.fbBytes_length (s : State) (a n : Nat) : (s.fbBytes a n).length = n := by
  simp [State.fbBytes]

@[simp] theorem sumTable_nil : sumTable [] = 0 := rfl

@[simp] theorem sumTable_cons (v : Byte) (t : List Byte) :
    sumTable (v :: t) = v.toNat + sumTable t := by
  simp [sumTable]

@[simp] theorem sumTable_append (t u : List Byte) :
    sumTable (t ++ u) = sumTable t + sumTable u := by
  simp [sumTable]

/-- A table of `k` entries sums to at most `255 * k` (rule R85). -/
theorem sumTable_le (t : List Byte) : sumTable t ≤ 255 * t.length := by
  induction t with
  | nil => simp
  | cons v t ih =>
    have := v.isLt
    simp only [sumTable_cons, List.length_cons]
    omega

theorem sumTable_fbBytes_le (s : State) (a : Nat) (n : Byte) :
    sumTable (s.fbBytes a n.toNat) ≤ 65025 := by
  have h := sumTable_le (s.fbBytes a n.toNat)
  have := n.isLt
  simp only [State.fbBytes_length] at h
  omega

/-- Everything `page_extent` can answer (rule R110). -/
theorem pageExtent_cases (s : State) (p : Nat) :
    (s.avail p < 27 ∧ pageExtent s p = .needMore 27) ∨
    (27 ≤ s.avail p ∧ s.avail p < 27 + (s.fbByte (p + 26)).toNat ∧
      pageExtent s p = .needMore (27 + (s.fbByte (p + 26)).toNat)) ∨
    (27 + (s.fbByte (p + 26)).toNat ≤ s.avail p ∧
      pageExtent s p = .length (27 + (s.fbByte (p + 26)).toNat +
        sumTable (s.fbBytes (p + 27) (s.fbByte (p + 26)).toNat))) := by
  unfold pageExtent
  by_cases h1 : s.avail p < 27
  · exact .inl ⟨h1, by simp [h1]⟩
  · by_cases h2 : s.avail p < 27 + (s.fbByte (p + 26)).toNat
    · exact .inr (.inl ⟨by omega, h2, by simp [h1, h2]⟩)
    · exact .inr (.inr ⟨by omega, by simp [h1, h2]⟩)

/-- The page at the cursor is wholly in the buffer where the shared check says so (rules R103, R104). -/
theorem wholePage_ok {s : State} {n : Nat} (h : wholePage s = .ok n) :
    pageExtent s s.pos.toNat = .length n ∧ n ≤ s.avail s.pos.toNat ∧ 27 ≤ n := by
  unfold wholePage at h
  rcases pageExtent_cases s s.pos.toNat with ⟨_, he⟩ | ⟨_, _, he⟩ | ⟨_, he⟩
  · simp [he] at h
  · simp [he] at h
  · rw [he] at h
    simp only at h
    split at h
    · cases h
    · injection h with h
      subst h
      exact ⟨he, by omega, by omega⟩

theorem wholePage_error {s : State} {k : ErrKind} (h : wholePage s = .error k) : k = .truncated := by
  unfold wholePage at h
  split at h
  · injection h with h; exact h.symm
  · split at h
    · injection h with h; exact h.symm
    · cases h

/-! ### Field assembly and the type-flags byte (rules R36, R42, R63) -/

@[simp] theorem leBytes_length {n : Nat} (k : Nat) (v : BitVec n) : (leBytes k v).length = k := by
  induction k generalizing v with
  | zero => rfl
  | succ k ih => simp [leBytes, ih]

/-- Byte by byte, the little-endian assembly inverts the little-endian layout. -/
theorem leValue_leBytes_getLsbD {n : Nat} (k : Nat) (v : BitVec n) (j : Nat) :
    (leValue n (leBytes k v)).getLsbD j = (v.getLsbD j && decide (j < 8 * k)) := by
  induction k generalizing v j with
  | zero => simp [leBytes, leValue]
  | succ k ih =>
    simp only [leBytes, leValue, BitVec.getLsbD_or, BitVec.getLsbD_setWidth, BitVec.getLsbD_shiftLeft,
      ih, BitVec.getLsbD_ushiftRight]
    by_cases hn : j < n
    · by_cases h8 : j < 8
      · have : j < 8 * (k + 1) := by omega
        simp [hn, h8, this]
      · have e : 8 + (j - 8) = j := by omega
        have : decide (j - 8 < 8 * k) = decide (j < 8 * (k + 1)) := by
          congr 1
          exact propext ⟨fun _ => by omega, fun _ => by omega⟩
        simp [hn, h8, e, this]
    · have : v.getLsbD j = false := BitVec.getLsbD_of_ge v j (by omega)
      simp [hn, this]

theorem leValue_leBytes {n : Nat} (k : Nat) (v : BitVec n) (h : n ≤ 8 * k) :
    leValue n (leBytes k v) = v := by
  apply BitVec.eq_of_getLsbD_eq
  intro j hj
  rw [leValue_leBytes_getLsbD]
  have : j < 8 * k := by omega
  simp [this]

@[simp] theorem fldBytes_length (P : Params) {n : Nat} (v : BitVec n) :
    (fldBytes P v).length = n / 8 := by
  unfold fldBytes
  cases P.byteOrder <;> simp

/-- `fld_n` inverts `fld_bytes_n` in either byte order, for a field of whole bytes (rule R36). -/
theorem fld_fldBytes (P : Params) {n : Nat} (v : BitVec n) (h : n = 8 * (n / 8)) :
    fld P n (fldBytes P v) = v := by
  unfold fld fldBytes
  cases P.byteOrder <;> simp [leValue_leBytes _ _ (Nat.le_of_eq h)]

/-- `type_decode` inverts `TYPE_CODE` wherever it is injective (rules R9, R63). -/
theorem typeDecode_typeCode {P : Params} (h : P.Valid) (t : PageType) :
    typeDecode P (typeCode P t) = some t := by
  obtain ⟨_, h1, h2, h3, _⟩ := h
  cases t <;> simp [typeDecode, typeCode, Ne.symm h1, Ne.symm h2, Ne.symm h3]

/-- A byte that decodes is the code of its type (rule R63). -/
theorem typeCode_of_typeDecode {P : Params} {b : Byte} {t : PageType}
    (h : typeDecode P b = some t) : typeCode P t = b := by
  unfold typeDecode at h
  split at h
  · next hb => cases h; exact hb.symm
  · split at h
    · next hb => cases h; exact hb.symm
    · split at h
      · next hb => cases h; exact hb.symm
      · cases h

/-- `FB_SIZE` lies in the range of rule R8. -/
theorem fbSize_bounds : 65307 ≤ Config.fbSize ∧ Config.fbSize ≤ 4294967295 := by
  have := Config.fbExtra.isLt
  unfold Config.fbSize
  omega

/-- The machine's parameters are as rules R8 and R9 bound them. -/
theorem Config.params_valid : Config.params.Valid :=
  ⟨rfl, by decide, by decide, by decide, fbSize_bounds.1, fbSize_bounds.2, Nat.le_add_left 1 _⟩

/-- The constants that rule R7 derives from the others. -/
theorem constants_of_rule_r7 :
    Config.hdr = 4 + 1 + 1 + 8 + 4 + 4 + 4 + 1 ∧ Config.maxPay = Config.maxSeg * Config.maxLace ∧
      Config.maxPage = Config.hdr + Config.maxSeg + Config.maxPay ∧
      Config.csumOff = 4 + 1 + 1 + 8 + 4 + 4 ∧ Config.nsegOff = Config.csumOff + 4 := by
  decide

end Sys2Proof.Machine
end

