-- ==== Sys2Proof/Laws/PerInstr.lean ====
section
/-!
SUPPORT. The statement made for every constructor of Instr: its command code is one of the fifteen of rule
R66, its transaction begins with that code, and it carries a byte string only where the operation takes one
(rule R65).
-/

namespace Sys2Proof.Laws.CommandCode

/-- The code of `i` selects an operation, heads its transaction, and an operand follows only where taken. -/
def Statement (i : Instr) : Prop :=
  1 ≤ (opcode i).toNat ∧ (opcode i).toNat ≤ 15 ∧
    encode i = opcode i :: operandBytes i ∧
    (takesOperand (opcode i) = false → operandBytes i = [])

theorem new : Statement .new := ⟨by decide, by decide, rfl, fun _ => rfl⟩
theorem clear : Statement .clear := ⟨by decide, by decide, rfl, fun _ => rfl⟩
theorem write (w : List Byte) : Statement (.write w) :=
  ⟨Nat.le_of_ble_eq_true rfl, Nat.le_of_ble_eq_true rfl, rfl, fun h => absurd h (by simp [opcode, takesOperand])⟩
theorem getSegments : Statement .getSegments := ⟨by decide, by decide, rfl, fun _ => rfl⟩
theorem lace : Statement .lace := ⟨by decide, by decide, rfl, fun _ => rfl⟩
theorem getChecksum : Statement .getChecksum := ⟨by decide, by decide, rfl, fun _ => rfl⟩
theorem fillChecksum : Statement .fillChecksum := ⟨by decide, by decide, rfl, fun _ => rfl⟩
theorem getLength : Statement .getLength := ⟨by decide, by decide, rfl, fun _ => rfl⟩
theorem parse : Statement .parse := ⟨by decide, by decide, rfl, fun _ => rfl⟩
theorem serialize : Statement .serialize := ⟨by decide, by decide, rfl, fun _ => rfl⟩
theorem fbReset : Statement .fbReset := ⟨by decide, by decide, rfl, fun _ => rfl⟩
theorem fbAppend (w : List Byte) : Statement (.fbAppend w) :=
  ⟨Nat.le_of_ble_eq_true rfl, Nat.le_of_ble_eq_true rfl, rfl, fun h => absurd h (by simp [opcode, takesOperand])⟩
theorem fbCompact : Statement .fbCompact := ⟨by decide, by decide, rfl, fun _ => rfl⟩
theorem clrErr : Statement .clrErr := ⟨by decide, by decide, rfl, fun _ => rfl⟩
theorem reset : Statement .reset := ⟨by decide, by decide, rfl, fun _ => rfl⟩

end Sys2Proof.Laws.CommandCode
end

