-- ==== Sys2Proof/Tests/Slice0.lean ====
section
/-!
SUPPORT. Tests of single steps on small states. The expected values are those of spec/95_test_vectors.md
and of the examples in the rules, named at each test; none is the model's own answer. The second part
gives, for every statement with hypotheses, a state and operands that meet them all.
-/

open Sys2Proof Sys2Proof.Machine Sys2Proof.Claims

set_option Elab.async false

namespace Sys2Proof.Tests

/-! ### Helpers -/

/-- The next state of an outcome, if it is one. -/
def after (r : Result) : Option State :=
  match r with
  | .next t => some t
  | .fault _ => none
  | .refused _ => none

/-- A block after reset whose frame buffer holds `bs`. -/
def withBuffer (bs : List Byte) : State :=
  { State.reset with fb := entriesFrom 0 bs, flen := BitVec.ofNat 32 bs.length }

/-- A block after reset that holds a table and a payload. -/
def withPage (table payload : List Byte) : State :=
  { State.reset with
    segtab := entriesFrom 0 table, nseg := BitVec.ofNat 8 table.length
    data := entriesFrom 0 payload, dlen := BitVec.ofNat 17 payload.length }

/-- Vector P1 of 95_test_vectors.md section 2.5, 31 bytes. -/
def p1 : List Byte :=
  [0x4F, 0x67, 0x67, 0x53, 0x00, 0x02, 0x00, 0x00, 0x00, 0x00, 0x00, 0x00, 0x00, 0x00, 0x78, 0x56,
   0x34, 0x12, 0x00, 0x00, 0x00, 0x00, 0xEB, 0x06, 0x31, 0xBD, 0x01, 0x03, 0x61, 0x62, 0x63]

/-- The 28 bytes of vector C4 of section 2.8: P0 with a wrong checksum field. -/
def c4 : List Byte :=
  [0x4F, 0x67, 0x67, 0x53, 0x00, 0x01, 0x00, 0x00, 0x00, 0x00, 0x00, 0x00, 0x00, 0x00, 0x00, 0x00,
   0x00, 0x00, 0x00, 0x00, 0x00, 0x00, 0xDE, 0xAD, 0xBE, 0xEF, 0x01, 0x00]

/-- The page of P1 before SERIALIZE: TYPE BeginOfStream, STREAM_ID 0x12345678, table 03, payload abc. -/
def p1Page : State :=
  { withPage [0x03] [0x61, 0x62, 0x63] with pageType := .beginOfStream, streamId := 0x12345678 }

/-- P1 with one byte changed. -/
def p1With (k : Nat) (b : Byte) : State := withBuffer (p1.set k b)

/-- A block whose ERR holds ChecksumMismatch (vectors X3 to X6). -/
def failedBlock : State := { State.reset with err := 2 }

/-! ### Well-formedness: what each check refuses (rules R20, R40, U6) -/

theorem test_register_index_17_refused : registerIndexOk 16 = true ∧ registerIndexOk 17 = false := by
  decide

theorem test_segtab_index_255_refused :
    cellIndexOk Config.params .segtab 254 = true ∧ cellIndexOk Config.params .segtab 255 = false := by decide

theorem test_data_index_65025_refused :
    cellIndexOk Config.params .data 65024 = true ∧ cellIndexOk Config.params .data 65025 = false := by decide +kernel

theorem test_subseg_index_255_refused :
    cellIndexOk Config.params .subseg 254 = true ∧ cellIndexOk Config.params .subseg 255 = false := by decide

theorem test_only_segtab_host_writable :
    hostWritable .segtab = true ∧ hostWritable .data = false ∧ hostWritable .fb = false ∧
      hostWritable .subseg = false := by decide

theorem test_every_operation_well_formed : (Instr.write [1, 2]).wellFormed = true := by decide

/-! ### Decoding: words written out bit by bit from rule R66's table -/

theorem test_decode_page_family : decode [0b00000001#8] = .ok .new ∧
    decode [0b00000010#8] = .ok .clear ∧
    decode [0b00000011#8, 0x78#8] = .ok (.write [0x78#8]) := ⟨rfl, rfl, rfl⟩

theorem test_decode_lacing_family :
    decode [0b00000100#8] = .ok .getSegments ∧ decode [0b00000101#8] = .ok .lace := ⟨rfl, rfl⟩

theorem test_decode_checksum_family : decode [0b00000110#8] = .ok .getChecksum ∧
    decode [0b00000111#8] = .ok .fillChecksum := ⟨rfl, rfl⟩

theorem test_decode_codec_family : decode [0b00001000#8] = .ok .getLength ∧
    decode [0b00001001#8] = .ok .parse ∧ decode [0b00001010#8] = .ok .serialize := ⟨rfl, rfl, rfl⟩

theorem test_decode_buffer_family : decode [0b00001011#8] = .ok .fbReset ∧
    decode [0b00001100#8, 0x4F#8, 0x67#8] = .ok (.fbAppend [0x4F#8, 0x67#8]) ∧
    decode [0b00001101#8] = .ok .fbCompact := ⟨rfl, rfl, rfl⟩

theorem test_decode_system_family :
    decode [0b00001110#8] = .ok .clrErr ∧ decode [0b00001111#8] = .ok .reset := ⟨rfl, rfl⟩

theorem test_decode_rejects_by_name : decode [] = .error .noCode ∧
    decode [0x00#8] = .error (.illegalCode 0x00#8) ∧
    decode [0x10#8] = .error (.illegalCode 0x10#8) ∧
    decode [0x01#8, 0x55#8] = .error (.operandNotTaken 0x01#8) := ⟨rfl, rfl, rfl, rfl⟩

theorem test_table_word_0a : decodeTableWord 8 0x0A = some .serialize := by decide

theorem test_table_word_step : (after (step (State.reset.withFetchWord 8 0x0A))).map (·.flen) =
    some 27 := by decide +kernel

/-! ### The CRC (section 2.1) -/

theorem test_crc_k9_abc : crc32 Config.params [0x61, 0x62, 0x63] = 0x2C17398C := by decide +kernel

theorem test_crc_k10_digits :
    crc32 Config.params [0x31, 0x32, 0x33, 0x34, 0x35, 0x36, 0x37, 0x38, 0x39] = 0x89A1897F := by
  decide +kernel

/-! ### Page, lacing (sections 2.2 to 2.4, rules R81, R82, R90) -/

/-- The example of R81. -/
theorem test_new_example :
    (after (exec .new p1Page)).map (fun t => (t.dlen, t.nseg, t.streamId)) = some (0, 0, 0) := by
  decide

/-- The example of R82, on a small page: PACKET_INDEX stays. -/
theorem test_clear_keeps_header :
    (after (exec .clear { p1Page with packetIndex := 7 })).map
      (fun t => (t.dlen, t.nseg, t.packetIndex)) = some (0, 0, 7) := by decide

/-- Vector W3. -/
theorem test_write_w3 :
    (after (exec (.write [0, 1, 2, 3, 4, 5, 6, 7, 8, 9]) { State.reset with dlen := 65020 })).map
      (fun t => (t.res, t.dlen, t.data)) =
    some (5, 65025, [(65020, 0), (65021, 1), (65022, 2), (65023, 3), (65024, 4)]) := by
  decide +kernel

/-- Vector W4. -/
theorem test_write_w4_full_page :
    (after (exec (.write [0x78]) { State.reset with dlen := 65025 })).map
      (fun t => (t.res, t.dlen)) = some (0, 65025) := by decide +kernel

/-- Vector L7. -/
theorem test_lace_l7_510 : (after (exec .lace { State.reset with arg := 510 })).map
    (fun t => (t.nseg, t.segtab, t.res)) =
    some (3, [(0, 0xFF), (1, 0xFF), (2, 0x00)], 3) := by decide +kernel

/-- Vectors L10 and L11. -/
theorem test_lace_l10_l11_capacity :
    (after (exec .lace { State.reset with arg := 65025 })).map (fun t => (t.nseg, t.err)) =
      some (255, 0) ∧
    (after (exec .lace { State.reset with arg := 65026 })).map (fun t => (t.nseg, t.err)) =
      some (0, 4) := by decide +kernel

/-- Vector G8. -/
theorem test_segments_g8 : subSegments [0x03, 0x00, 0xFF, 0x02] =
    [⟨0, 3⟩, ⟨3, 0⟩, ⟨3, 257⟩] ∧ endsOpen [0x03, 0x00, 0xFF, 0x02] = false := by decide +kernel

/-- Vector G9. -/
theorem test_segments_g9_open : subSegments [0x05, 0xFF] = [⟨0, 5⟩, ⟨5, 255⟩] ∧
    endsOpen [0x05, 0xFF] = true := by decide +kernel

/-- Vectors G4 and G13. -/
theorem test_get_segments_g4_g13 :
    (after (exec .getSegments p1Page)).map (fun t => (t.nsub, t.subseg, t.openRun, t.res)) =
      some (1, [(0, ⟨0, 3⟩)], false, 1) ∧
    (after (exec .getSegments { p1Page with dlen := 4 })).map (fun t => (t.nsub, t.err)) =
      some (0, 7) := by decide +kernel

/-! ### Checksum, codec (sections 2.5 to 2.8) -/

/-- Vector C1 and the example of R103. -/
theorem test_get_checksum_c1 :
    (after (exec .getChecksum (withBuffer p1))).map (·.res) = some 0xBD3106EB := by decide +kernel

/-- Vector C5. -/
theorem test_get_checksum_c5_truncated :
    (after (exec .getChecksum (withBuffer (p1.take 30)))).map (·.err) = some 3 := by decide +kernel

/-- Vector C4. -/
theorem test_fill_checksum_c4 : (after (exec .fillChecksum (withBuffer c4))).map
    (fun t => (t.res, t.fbBytes 22 4)) = some (0x6C636298, [0x98, 0x62, 0x63, 0x6C]) := by
  decide +kernel

/-- Section 2.6, k = 26, 27, 28. -/
theorem test_get_length_table : [26, 27, 28].map (fun k =>
    (after (exec .getLength (withBuffer (p1.take k)))).map (fun t => (t.res, t.lenv))) =
    [some (27, false), some (28, false), some (31, true)] := by decide +kernel

/-- The example of R112. -/
theorem test_parse_p1 : (after (exec .parse (withBuffer p1))).map
    (fun t => (t.page, t.res, t.pos)) =
    some ({ pageType := .beginOfStream, granule := 0, streamId := 0x12345678, packetIndex := 0
            checksum := 0xBD3106EB, table := [0x03], payload := [0x61, 0x62, 0x63] }, 31, 31) := by
  decide +kernel

/-- Vectors E1 to E10, E12 and E13. -/
theorem test_parse_errors : [p1With 0 0x4E, p1With 4 0x01, p1With 5 0x00, p1With 5 0x03,
      p1With 5 0x82, p1With 28 0x60, p1With 25 0x3D, p1With 27 0x07, p1With 27 0x02,
      p1With 26 0x00, withBuffer ((p1.set 0 0).take 30), withBuffer ((p1.set 0 0).take 10)].map
    (fun s => (after (exec .parse s)).map (·.err)) =
    [1, 1, 1, 1, 1, 2, 2, 3, 2, 2, 1, 3].map some := by decide +kernel

/-- The example of R113: the page of P1 is emitted as P1. -/
theorem test_serialize_p1 : (after (exec .serialize p1Page)).map
    (fun t => (t.fbBytes 0 31, t.flen, t.res, t.checksum)) =
    some (p1, 31, 31, 0xBD3106EB) := by decide +kernel

/-- Parameters other than the spec's values that rules R8 and R9 allow: another magic, big-endian fields, other
type codes, the least buffer. -/
def otherParams : Params :=
  { Config.params with
    magic := [0x41, 0x42, 0x43, 0x44], byteOrder := .big, codeBeginOfStream := 0x10
    fbSize := 65307, bytesWrittenCounts := .serialized }

theorem otherParams_valid : otherParams.Valid :=
  ⟨rfl, by decide, by decide, by decide, by decide, by decide, Config.params_valid.2.2.2.2.2.2⟩

/-- The page of P1 under other parameters: by R36 the first byte of a big-endian field is its most significant
one. -/
theorem test_serialize_other_parameters :
    (after (execWith otherParams .serialize p1Page)).map (fun t => t.fbBytes 0 18) =
      some [0x41, 0x42, 0x43, 0x44, 0, 0x10, 0, 0, 0, 0, 0, 0, 0, 0, 0x12, 0x34, 0x56, 0x78] ∧
    (after (execWith otherParams .parse (withBuffer p1))).map (·.err) = some 1 := by
  decide +kernel

/-- Program P-G, step 4. -/
theorem test_serialize_page_invariant : (after (exec .serialize { p1Page with nseg := 0 })).map
    (fun t => (t.err, t.flen)) = some (7, 0) := by decide +kernel

/-! ### Frame buffer, system, host accesses (sections 2.9, 2.10) -/

/-- Vector F1. -/
theorem test_fb_append_f1 : (after (exec (.fbAppend [0x4F, 0x67]) State.reset)).map
    (fun t => (t.flen, t.res, t.fb)) = some (2, 2, [(0, 0x4F), (1, 0x67)]) := by decide +kernel

/-- Vector F2. -/
theorem test_fb_compact_f2 :
    (after (exec .fbCompact { withBuffer (p1 ++ p1.take 9) with pos := 31, status := 1 })).map
      (fun t => (t.flen, t.pos, t.res, t.lenv, t.fbBytes 0 9)) =
    some (9, 0, 9, false, [0x4F, 0x67, 0x67, 0x53, 0x00, 0x02, 0x00, 0x00, 0x00]) := by
  decide +kernel

/-- Vector F3. -/
theorem test_fb_reset_f3 :
    (after (exec .fbReset { State.reset with flen := 40, pos := 31, status := 3 })).map
      (fun t => (t.flen, t.pos, t.status)) = some (0, 0, 2) := by decide

/-- Vectors X1, X2 and X4. -/
theorem test_illegal_codes : (after (perform (.command 0x00 []) State.reset)).map (·.err) = some 8 ∧
    (after (perform (.command 0x10 []) State.reset)).map (·.err) = some 8 ∧
    (after (perform (.command 0x00 []) failedBlock)).map (·.err) = some 2 := by decide

/-- R20, R21: a write of the CMD register issues the operation of its low 8 bits (0x0F is RESET). -/
theorem test_cmd_write_through_the_register_file :
    (after (perform (.writeReg .cmd 0x10F) { State.reset with arg := 7 })).map (·.arg) = some 0 ∧
    (after (perform (.writeIndex 0 0x10) State.reset)).map (·.err) = some 8 := by decide +kernel

/-- Vectors X3 and X5. -/
theorem test_sticky_error : (after (exec (.write [0x78]) failedBlock)).map
      (fun t => (t.dlen, t.err)) = some (0, 2) ∧
    (after (exec .clrErr failedBlock)).map (·.err) = some 0 := by decide

/-- Vector X6. -/
theorem test_register_write_not_gated :
    (after (perform (.writeReg .streamId 5) failedBlock)).map (·.streamId) = some 5 := by decide

/-- The example of R181. -/
theorem test_reset_example :
    (after (exec .reset { withBuffer p1 with err := 3, pos := 31, dlen := 3 })).map
      (fun t => (t.err, t.flen, t.pos, t.dlen)) = some (0, 0, 0, 0) := by decide

/-- Register 4 is STATUS, 7 and 8 are the halves of GRANULE, 17 does not exist (R20, U6). -/
theorem test_register_indices :
    (after (perform (.writeIndex 8 0x01020304) { State.reset with granule := 5 })).map (·.granule) =
      some 0x0102030400000005 ∧
    (after (perform (.readIndex 4) { State.reset with status := 2 })).map (·.hostData) =
      some (some (.value 2)) ∧
    after (perform (.readIndex 17) State.reset) = none := by decide

/-- A cell outside the valid range answers and does not stop; one outside the index range is refused. -/
theorem test_cell_reads :
    (after (perform (.readCell .segtab 0) p1Page)).map (·.hostData) = some (some (.value 3)) ∧
    (after (perform (.readCell .segtab 1) p1Page)).map (·.freeReads) = some 1 ∧
    after (perform (.readCell .segtab 255) p1Page) = none := by decide +kernel

/-- The host reader over P1 in two chunks, and its clean end (program P-H). -/
theorem test_reader_p1 :
    let r := Reader.getPacket Config.params [.bytes (p1.take 20), .bytes (p1.drop 20)] Reader.fresh
    r.2.1.streamId = some 0x12345678 ∧ r.2.1.isEos = false ∧
      (Reader.getPacket Config.params [] r.2.1).1 = .noPacketCleanEnd := by decide +kernel

/-- The host writer's first page, of payload abc, is P1 (rules R143, R144). -/
theorem test_writer_seals_p1 :
    (Writer.sealPacket Config.params (fun _ => true) 0 false
      (Writer.write Config.params (fun _ => true) none [0x61, 0x62, 0x63]
        (Writer.fresh 0x12345678#32 ())).2).2.accepted = [p1] := by decide +kernel

/-! ### Witnesses: for each statement with hypotheses, a state and operands that meet them all -/

/-- A block after a successful parse of P1. -/
def parsedP1 : State := opParse Config.params (withBuffer p1)

/-- A block after serializing the page of P1. -/
def serializedP1 : State := opSerialize Config.params p1Page

/-- A block whose buffer holds one page of the other parameters. -/
def otherPage : State := opSerialize otherParams p1Page

/-- One state meets the hypothesis `ERR = 0` of the statements about NEW, CLEAR, WRITE, GET_LENGTH, FB_RESET,
FB_APPEND, FB_COMPACT, and that RESET is NEW, FB_RESET and CLR_ERR. -/
theorem witness_err_clear : p1Page.err = 0 := rfl

theorem witness_WriteAppendsWhatFits_full :
    ({ State.reset with dlen := 65025 } : State).err = 0 := rfl

theorem witness_FourLawsOfWrite : ∃ t t' u : State, p1Page.err = 0 ∧
    exec (.write [1]) p1Page = .next t ∧ exec (.write [2]) t = .next t' ∧
    exec (.write ([1] ++ [2])) p1Page = .next u := ⟨_, _, _, rfl, rfl, rfl, rfl⟩

theorem witness_GetSegmentsListsTheTable : (p1Page.err = 0 ∧ p1Page.PageInvariant) ∧
    (({ p1Page with dlen := 4 } : State).err = 0 ∧
      ¬ ({ p1Page with dlen := 4 } : State).PageInvariant) ∧
    (opGetSegments p1Page).nsub.toNat ≤ 1 := by decide +kernel

theorem witness_SubSegmentsCoverThePayload : ∃ t, p1Page.err = 0 ∧
    exec .getSegments p1Page = .next t ∧ t.err = 0 ∧ t.subSegs[0]? = some ⟨0, 3⟩ :=
  ⟨opGetSegments p1Page, rfl, exec_of_clear rfl .getSegments, by decide +kernel, by decide +kernel⟩

theorem witness_LacingReadsRunsOf255 :
    (0 < 255 ∧ 255 ≤ 255) ∧ ((254#8).toNat < 255 ∧ 254 + 1 + ([] : List Byte).length ≤ 255) := by
  decide

theorem witness_LaceBuildsTheTableOfArg :
    (({ State.reset with arg := 65025 } : State).err = 0 ∧
      ({ State.reset with arg := 65025 } : State).arg.toNat ≤ 65025) ∧
    (({ State.reset with arg := 65026 } : State).err = 0 ∧
      65025 < ({ State.reset with arg := 65026 } : State).arg.toNat) ∧
    (({ p1Page with arg := 3 } : State).err = 0 ∧
      ({ p1Page with arg := 3 } : State).arg.toNat = p1Page.dlen.toNat) := by decide +kernel

theorem witness_FiveLawsOfLacing : lace 3 = some p1Page.table ∧ p1Page.err = 0 ∧
    p1Page.dlen.toNat = 3 := by decide +kernel

theorem witness_wholeAt : (withBuffer p1).err = 0 ∧ wholeAt (withBuffer p1) :=
  ⟨rfl, by unfold wholeAt; decide +kernel⟩

theorem witness_not_wholeAt : (withBuffer (p1.take 30)).err = 0 ∧ ¬ wholeAt (withBuffer (p1.take 30)) :=
  ⟨rfl, by unfold wholeAt; decide +kernel⟩

theorem witness_FilledChecksumVerifies : ∃ t, (withBuffer p1).err = 0 ∧ wholeAt (withBuffer p1) ∧
    exec .fillChecksum (withBuffer p1) = .next t :=
  ⟨_, rfl, witness_wholeAt.2, exec_of_clear rfl .fillChecksum⟩

theorem witness_CrcDetectsEverySingleBit : (7 : Nat) < 8 := by decide

theorem witness_FlippedBitFailsParse : ∃ t, (withBuffer p1).err = 0 ∧
    exec .parse (withBuffer p1) = .next t ∧ t.err = 0 ∧
    ((0 < lengthAt (withBuffer p1) ∧ 0 < 26) ∧ (5 < lengthAt (withBuffer p1) ∧ 5 < 26) ∧
      (25 < lengthAt (withBuffer p1) ∧ 25 < 26) ∧
      (28 < lengthAt (withBuffer p1) ∧ 27 + segCount (withBuffer p1) ≤ 28)) :=
  ⟨parsedP1, rfl, exec_of_clear rfl .parse, by decide +kernel, by decide +kernel⟩

theorem witness_GetLengthAnswersInEveryCase :
    (withBuffer (p1.take 26)).avail 0 < 27 ∧
    (¬ (withBuffer (p1.take 27)).avail 0 < 27 ∧
      (withBuffer (p1.take 27)).avail 0 < 27 + segCount (withBuffer (p1.take 27))) ∧
    ¬ (withBuffer (p1.take 28)).avail 0 < 27 + segCount (withBuffer (p1.take 28)) := by
  decide +kernel

theorem witness_DiscoveredLengthIsStable : ∃ t, (withBuffer (p1.take 28)).err = 0 ∧
    pageExtent (withBuffer (p1.take 28)) 0 = .length 31 ∧
    exec (.fbAppend [0x61]) (withBuffer (p1.take 28)) = .next t :=
  ⟨_, rfl, by decide +kernel, exec_of_clear rfl (.fbAppend [0x61])⟩

theorem witness_ParseChecksThenLoads :
    [withBuffer (p1.take 26), p1With 0 0x4E, p1With 4 0x01, p1With 5 0x03,
      withBuffer (p1.take 28), withBuffer (p1.take 30), p1With 28 0x60, withBuffer p1].map
      parseError = [some 3, some 1, some 1, some 1, some 3, some 3, some 2, none] := by
  decide +kernel

theorem witness_ParsedPageIsValid : ∃ t, otherParams.Valid ∧ otherPage.err = 0 ∧
    execWith otherParams .parse otherPage = .next t ∧ t.err = 0 :=
  ⟨opParse otherParams otherPage, otherParams_valid, by decide +kernel,
    execWith_of_clear _ (by decide +kernel) .parse, by decide +kernel⟩

theorem witness_successful_parse : ∃ t, (withBuffer p1).err = 0 ∧
    exec .parse (withBuffer p1) = .next t ∧ t.err = 0 :=
  ⟨parsedP1, rfl, exec_of_clear rfl .parse, by decide +kernel⟩

theorem witness_SerializeAppendsTheWireFormat :
    (p1Page.err = 0 ∧ p1Page.PageInvariant ∧
      p1Page.flen.toNat + (27 + p1Page.nseg.toNat + p1Page.dlen.toNat) ≤ Config.fbSize) ∧
    ¬ ({ p1Page with dlen := 4 } : State).PageInvariant ∧
    (({ p1Page with flen := 0xFFFFFFFF } : State).PageInvariant ∧
      Config.fbSize < ({ p1Page with flen := 0xFFFFFFFF } : State).flen.toNat +
        (27 + p1Page.nseg.toNat + p1Page.dlen.toNat)) :=
  ⟨by decide +kernel, by decide +kernel, by decide +kernel,
    Nat.lt_of_le_of_lt fbSize_bounds.2 (by decide +kernel)⟩

theorem witness_ParseInvertsSerialize : (∃ t, otherParams.Valid ∧ p1Page.err = 0 ∧
      execWith otherParams .serialize p1Page = .next t ∧ t.err = 0) ∧
    ({ p1Page with checksum := 0xBD3106EB } : State).ValidPage Config.params :=
  ⟨⟨opSerialize otherParams p1Page, otherParams_valid, rfl, execWith_of_clear _ rfl .serialize,
    by decide +kernel⟩, by decide +kernel⟩

theorem witness_SerializeInvertsParse : ∃ t, otherParams.Valid ∧ otherPage.err = 0 ∧
    execWith otherParams .parse otherPage = .next t ∧ t.err = 0 ∧
    otherPage.flen.toNat + t.res.toNat ≤ otherParams.fbSize :=
  ⟨opParse otherParams otherPage, otherParams_valid, by decide +kernel,
    execWith_of_clear _ (by decide +kernel) .parse, by decide +kernel, by decide +kernel⟩

theorem witness_ParametersAreInputsOfTheStep : otherParams.Valid ∧
    ({ State.reset with accesses := [.command 0x0C [0x4F]] } : State).accesses =
      .command 0x0C [0x4F] :: [] ∧
    decode (transaction 0x0C [0x4F]) = .ok (.fbAppend [0x4F]) ∧
    (Instr.lace ≠ .getChecksum ∧ Instr.lace ≠ .fillChecksum ∧ Instr.lace ≠ .parse ∧
      Instr.lace ≠ .serialize ∧ ∀ w, Instr.lace ≠ .fbAppend w) :=
  ⟨otherParams_valid, rfl, rfl, by decide, by decide, by decide, by decide, fun _ h => nomatch h⟩

theorem witness_SerializeFollowsTheParameters : otherParams.Valid ∧ p1Page.err = 0 ∧
    p1Page.PageInvariant ∧
    p1Page.flen.toNat + (27 + p1Page.nseg.toNat + p1Page.dlen.toNat) ≤ otherParams.fbSize :=
  ⟨otherParams_valid, rfl, by decide +kernel, by decide +kernel⟩

theorem witness_RaisingChangesOnlyErr : ∃ t, (p1With 0 0x4E).err = 0 ∧
    exec .parse (p1With 0 0x4E) = .next t ∧ t.err ≠ 0 :=
  ⟨opParse Config.params (p1With 0 0x4E), rfl, exec_of_clear rfl .parse, by decide +kernel⟩

/-- An operation of each kind that raises, for the clauses of the statement. -/
theorem witness_OnlyTheListedErrorsAreRaised :
    (opLace { State.reset with arg := 65026 }).err = 4 ∧
    (opGetSegments { p1Page with dlen := 4 }).err = 7 ∧ (opGetChecksum Config.params State.reset).err = 3 ∧
    (opFillChecksum Config.params State.reset).err = 3 ∧ (opParse Config.params State.reset).err = 3 ∧
    (opSerialize Config.params { p1Page with dlen := 4 }).err = 7 := by decide +kernel

theorem witness_illegal_codes : ((0x00#8 : Byte) = 0 ∧ State.reset.err = 0) ∧
    16 ≤ (0x10#8 : Byte).toNat ∧ 16 ≤ (0xFF#8 : Byte).toNat ∧ failedBlock.err ≠ 0 := by decide

theorem witness_ErrHoldsOnlyTheBlocksCodes : ∃ t, errOk State.reset.err ∧
    perform (.command 0x10 []) State.reset = .next t :=
  ⟨_, .inl (by decide), rfl⟩

theorem witness_StickyErrorIgnoresCommands : failedBlock.err ≠ 0 ∧
    (Instr.write [0x78] ≠ .clrErr ∧ Instr.write [0x78] ≠ .reset) ∧
    ((0x10#8 : Byte) ≠ 0x0E#8 ∧ (0x10#8 : Byte) ≠ 0x0F#8) ∧ Reg.pos ≠ .cmd ∧ 254 < 255 ∧
    Reg.cmd ≠ .err ∧ 254 < Space.size Config.params .segtab := by decide

theorem witness_StepRunsTheIssuedOperation :
    ({ State.reset with accesses := [.command 0x03 [0x78]] } : State).accesses =
      .command 0x03 [0x78] :: [] ∧
    decode (transaction 0x03 [0x78]) = .ok (.write [0x78]) ∧ State.reset.accesses = [] ∧
    ({ State.reset with accesses := [.readIndex 3] } : State).accesses = .readIndex 3 :: [] :=
  ⟨rfl, rfl, rfl, rfl⟩

theorem witness_TableCodesDecode : ([0x0A#8], Instr.serialize) ∈ codes := by decide

theorem witness_EveryMeaningfulAccessIsServed : accessOk (.writeIndex 16 0) ∧
    ¬ accessOk (.writeIndex 17 0) ∧ accessOk (.writeCell .segtab 254 0) ∧
    ¬ accessOk (.writeCell .segtab 255 0) ∧ ¬ accessOk (.writeCell .data 0 0) ∧
    accessOk (.readCell .data 65024) ∧ ¬ accessOk (.readCell .data 65025) := by
  simp [accessOk, Space.size, Config.maxPay]

/-- A state that no run from reset has to pass through meets the invariant too: the invariant is not empty. -/
theorem witness_StepKeepsInvariant : ∃ t, State.reset.Inv ∧ step State.reset = .next t := by
  refine ⟨State.reset, ⟨⟨?_, ?_, ?_, ?_, ?_, ?_, ?_, ?_⟩, ⟨?_, ?_, ?_, ?_⟩, ⟨?_, ?_, ?_⟩, ⟨?_, ?_⟩⟩, rfl⟩ <;>
    simp [State.reset, State.openRun, ErrKind.code]

theorem witness_OperationsWriteOnlyTheirState : ∃ t, exec .parse (withBuffer p1) = .next t ∧
    t.pos ≠ (withBuffer p1).pos :=
  ⟨parsedP1, exec_of_clear rfl .parse, by decide +kernel⟩

/-- The clauses about RES, ERR and the flags: an operation that changes each. -/
theorem witness_OperationsWriteOnlyTheirState_results :
    (opGetLength (withBuffer p1)).res ≠ (withBuffer p1).res ∧
    (opGetLength (withBuffer p1)).lenv ≠ (withBuffer p1).lenv ∧
    (opGetSegments p1Page).nsub ≠ p1Page.nsub ∧
    (opParse Config.params State.reset).err ≠ State.reset.err := by decide +kernel

theorem witness_PageInvariantHoldsAfter : ({ p1Page with arg := 3 } : State).err = 0 ∧
    ({ p1Page with arg := 3 } : State).dlen.toNat ≤ 65025 ∧
    ({ p1Page with arg := 3 } : State).arg.toNat = ({ p1Page with arg := 3 } : State).dlen.toNat := by
  decide +kernel

theorem witness_IgnoredHostWritesAreIgnored : (3#64).toNat % 4 = 3 ∧
    (withBuffer p1).flen.toNat < (32#64).toNat % 2 ^ 32 ∧ 254 < 255 ∧
    Reg.res ∈ [Reg.version, Reg.res, Reg.err, Reg.status, Reg.dlen, Reg.flen, Reg.nsub] ∧
    65024 < Space.size Config.params .data := by decide +kernel

theorem witness_HostWritesAreReadBack : (2#64).toNat % 4 ≠ 3 ∧
    (31#64).toNat % 2 ^ 32 ≤ (withBuffer p1).flen.toNat ∧
    (1, Reg.arg) ∈ indexTable ∧ (16, Reg.nsub) ∈ indexTable := by decide +kernel

theorem witness_HostReadsHaveNoSideEffect :
    (∃ t, perform (.readReg .err) p1Page = .next t ∧ regValue .err p1Page = some 0) ∧
    (∃ t, perform (.readIndex 16) p1Page = .next t) ∧
    (∃ t, perform (.readCell .segtab 0) p1Page = .next t) ∧ 0 < p1Page.nseg.toNat ∧
    2 < p1Page.dlen.toNat ∧ (30 < Config.fbSize ∧ 30 < (withBuffer p1).flen.toNat) ∧
    0 < (opGetSegments p1Page).nsub.toNat ∧ (Reg.dlen, 3) ∈ registerAnswers p1Page :=
  ⟨⟨_, rfl, rfl⟩, ⟨_, rfl⟩, ⟨_, rfl⟩, by decide +kernel, by decide +kernel, by decide +kernel,
    by decide +kernel, by decide +kernel⟩

theorem witness_SealFailsOnlyForWantOfRoom :
    (Config.params.Valid ∧ p1Page.err = 0 ∧ p1Page.dlen.toNat ≤ 65025 ∧
      p1Page.flen.toNat + (27 + min 255 (p1Page.dlen.toNat / 255 + 1) + p1Page.dlen.toNat) ≤
        Config.fbSize) ∧
    Config.fbSize < ({ p1Page with flen := 0xFFFFFFFF } : State).flen.toNat +
      (27 + min 255 (p1Page.dlen.toNat / 255 + 1) + p1Page.dlen.toNat) :=
  ⟨⟨Config.params_valid, by decide +kernel⟩, by
    exact Nat.lt_of_le_of_lt fbSize_bounds.2 (by decide +kernel)⟩

theorem witness_IntoBytesConsumesThePage :
    (∃ t, execWith otherParams .serialize p1Page = .next t ∧ t.err = 0) ∧
    ∃ t, execWith otherParams .serialize { p1Page with dlen := 4 } = .next t ∧ t.err ≠ 0 :=
  ⟨⟨opSerialize otherParams p1Page, execWith_of_clear _ rfl .serialize, by decide +kernel⟩,
    ⟨opSerialize otherParams { p1Page with dlen := 4 }, execWith_of_clear _ rfl .serialize,
      by decide +kernel⟩⟩

theorem witness_ParseAllStopsAtTheCleanEnd :
    Config.params.Valid ∧ (withBuffer p1).pos.toNat ≤ (withBuffer p1).flen.toNat ∧
    (∃ l, (parseAll Config.params (withBuffer p1)).2 = .pages [l]) ∧
    ∃ l, (parseAll Config.params (withBuffer (p1 ++ p1.take 20))).2 = .failed 3 [l] :=
  ⟨Config.params_valid, by decide +kernel, ⟨parsedP1.page, by decide +kernel⟩, ⟨parsedP1.page, by decide +kernel⟩⟩

theorem witness_ReaderReassemblesAChunkedPage : ∃ t, Config.params.Valid ∧
    execWith Config.params .parse (runWith Config.params (.fbAppend p1) State.reset) = .next t ∧
    t.err = 0 ∧
    t.res.toNat = p1.length ∧ [p1.take 20, p1.drop 20].flatten = p1 ∧
    ∀ c ∈ [p1.take 20, p1.drop 20], c ≠ [] :=
  ⟨opParse Config.params (runWith Config.params (.fbAppend p1) State.reset), Config.params_valid,
    execWith_of_clear _ (by decide +kernel) .parse, by decide +kernel,
    by decide +kernel, by decide +kernel, by decide +kernel⟩

theorem witness_ReaderEndsCleanlyOrTruncated : Reader.fresh.failed = false ∧
    Reader.fresh.block.err = 0 ∧ Reader.fresh.endOfInput = false ∧ Reader.fresh.pending = [] ∧
    Reader.fresh.block.flen.toNat ≤ Reader.fresh.block.pos.toNat ∧
    ((withBuffer (p1.take 20)).pos.toNat < (withBuffer (p1.take 20)).flen.toNat ∧
      ¬ wholeAt (withBuffer (p1.take 20))) :=
  ⟨rfl, rfl, rfl, rfl, by decide, by decide, by unfold wholeAt; decide +kernel⟩

theorem witness_SealCountsOnceOrKeepsThePage : otherParams.Valid ∧
    (Writer.fresh 5 () : Writer Unit).packetIndex ≠ 0xFFFFFFFF#32 ∧
    (Writer.fresh 5 () : Writer Unit).block.err = 0 ∧
    (Writer.fresh 5 () : Writer Unit).block.dlen.toNat ≤ 65025 ∧
    (fun _ => true : SinkAnswers) 0 = true ∧ (fun _ => false : SinkAnswers) 0 = false :=
  ⟨otherParams_valid, by decide⟩

theorem witness_WriterFirstPageBeginsTheStream :
    (Writer.fresh 5 () : Writer Unit).firstSealed = false ∧
    ({ (Writer.fresh 5 () : Writer Unit) with firstSealed := true }).firstSealed = true ∧
    (Writer.fresh 5 () : Writer Unit).block.err = 0 := by decide

theorem witness_FullPageIsSealedByItself : otherParams.Valid ∧
    (List.replicate 65025 (0xAA#8 : Byte)).length = 65025 :=
  ⟨otherParams_valid, List.length_replicate⟩

end Sys2Proof.Tests
end

section
/-!
The wire format (rules R61, R62, R113): what it means that a page stands in the frame buffer, field by field
and as one string of bytes, its checksum, and that SERIALIZE emits such a page. Then the parameters as inputs of a
step (rules R8, R11).
-/

namespace Sys2Proof.Machine

/-! ### Strings of bytes in a memory (rule R36) -/

theorem readBytes_one (sp : Space) (m : List Host.Cell) (a : Nat) :
    readBytes sp m a 1 = [readByte sp m a] := by
  simp [readBytes]

/-- Two strings stand one after the other where each stands at its own place. -/
theorem readBytes_eq_append_iff (sp : Space) (m : List Host.Cell) (a : Nat) (x y : List Byte) :
    readBytes sp m a (x ++ y).length = x ++ y ↔
      readBytes sp m a x.length = x ∧ readBytes sp m (a + x.length) y.length = y := by
  rw [List.length_append, readBytes_append]
  exact ⟨fun h => List.append_inj h (readBytes_length ..), fun ⟨hx, hy⟩ => by rw [hx, hy]⟩

/-- A write leaves every string outside its range as it was. -/
theorem readBytes_writeEntries_outside {sp : Space} {m : List Host.Cell} {base a n : Nat} {vs : List Byte}
    (h : a + n ≤ base ∨ base + vs.length ≤ a) :
    readBytes sp (writeEntries m base vs) a n = readBytes sp m a n :=
  readBytes_congr fun i hi => by rw [readByte_writeEntries, if_neg (by omega)]

/-- Writing over the middle of a string that was just written replaces the middle and keeps the two ends. -/
theorem readBytes_writeEntries_middle (sp : Space) (m : List Host.Cell) (a : Nat) (x z : List Byte)
    {y y' : List Byte} (h : y'.length = y.length) :
    readBytes sp (writeEntries (writeEntries m a (x ++ (y ++ z))) (a + x.length) y') a
      (x ++ (y' ++ z)).length = x ++ (y' ++ z) := by
  have written := readBytes_writeEntries_same sp m a (x ++ (y ++ z))
  obtain ⟨hx, hyz⟩ := (readBytes_eq_append_iff ..).mp written
  obtain ⟨-, hz⟩ := (readBytes_eq_append_iff ..).mp hyz
  refine (readBytes_eq_append_iff ..).mpr ⟨?_, (readBytes_eq_append_iff ..).mpr ⟨?_, ?_⟩⟩
  · rw [readBytes_writeEntries_outside (.inl (Nat.le_refl _)), hx]
  · exact readBytes_writeEntries_same ..
  · rw [readBytes_writeEntries_outside (.inr (Nat.le_refl _)), h, hz]

/-! ### The bytes of a page (rules R61, R102) -/

/-- The bytes of a page before its checksum field (rule R61). -/
def pageHead (P : Params) (pg : Page) : List Byte :=
  P.magic ++ ([0] ++ ([typeCode P pg.pageType] ++ (fldBytes P pg.granule ++ (fldBytes P pg.streamId ++
    fldBytes P pg.packetIndex))))

/-- The bytes of a page after its checksum field (rule R61). -/
def pageTail (pg : Page) : List Byte := [BitVec.ofNat 8 pg.table.length] ++ (pg.table ++ pg.payload)

/-- The bytes of a page with its own checksum in the checksum field (rule R61). -/
def wireBytes (P : Params) (pg : Page) : List Byte :=
  pageHead P pg ++ (fldBytes P pg.checksum ++ pageTail pg)

theorem pageBytes_eq (P : Params) (pg : Page) :
    pageBytes P pg = pageHead P pg ++ ([0, 0, 0, 0] ++ pageTail pg) := by
  simp only [pageBytes, pageHead, pageTail, List.append_assoc]

theorem pageHead_length {P : Params} (hmagic : P.magic.length = 4) (pg : Page) :
    (pageHead P pg).length = 22 := by
  simp [pageHead, hmagic]

theorem pageTail_length (pg : Page) :
    (pageTail pg).length = 1 + (pg.table.length + pg.payload.length) := by
  simp only [pageTail, List.length_append, List.length_singleton]

theorem wireBytes_length {P : Params} (hmagic : P.magic.length = 4) (pg : Page) :
    (wireBytes P pg).length = pg.length := by
  simp only [wireBytes, List.length_append, pageHead_length hmagic, fldBytes_length, pageTail_length,
    Page.length]
  omega

theorem pageBytes_length {P : Params} (hmagic : P.magic.length = 4) (pg : Page) :
    (pageBytes P pg).length = pg.length := by
  simp only [pageBytes_eq, List.length_append, pageHead_length hmagic, pageTail_length, Page.length,
    List.length_cons, List.length_nil]
  omega

/-- Zeroing the checksum field forgets the four bytes that stand in it (rule R102). -/
theorem zeroChecksum_field {head field : List Byte} (tail : List Byte) (hhead : head.length = 22)
    (hfield : field.length = 4) :
    zeroChecksum (head ++ (field ++ tail)) = head ++ ([0, 0, 0, 0] ++ tail) := by
  have htake : (head ++ (field ++ tail)).take 22 = head := List.take_left' hhead
  have hdrop : (head ++ (field ++ tail)).drop 26 = tail := by
    rw [← List.append_assoc]
    exact List.drop_left' (by simp [hhead, hfield])
  rw [zeroChecksum, htake, hdrop, List.append_assoc]

theorem zeroChecksum_wireBytes {P : Params} (hmagic : P.magic.length = 4) (pg : Page) :
    zeroChecksum (wireBytes P pg) = pageBytes P pg := by
  rw [wireBytes, zeroChecksum_field _ (pageHead_length hmagic pg) (fldBytes_length P pg.checksum), pageBytes_eq]

theorem zeroChecksum_pageBytes {P : Params} (hmagic : P.magic.length = 4) (pg : Page) :
    zeroChecksum (pageBytes P pg) = pageBytes P pg := by
  rw [pageBytes_eq, zeroChecksum_field _ (pageHead_length hmagic pg) rfl]

/-! ### A page in the frame buffer (rules R61, R62, R102) -/

/-- The page `pg` stands at index `b` of the frame buffer, field by field (rules R61, R62). -/
structure State.HoldsPage (P : Params) (s : State) (b : Nat) (pg : Page) : Prop where
  magic : s.fbBytes b 4 = P.magic
  version : s.fbByte (b + 4) = 0
  typeFlags : s.fbByte (b + 5) = typeCode P pg.pageType
  granule : s.fbBytes (b + 6) 8 = fldBytes P pg.granule
  streamId : s.fbBytes (b + 14) 4 = fldBytes P pg.streamId
  packetIndex : s.fbBytes (b + 18) 4 = fldBytes P pg.packetIndex
  checksum : s.fbBytes (b + 22) 4 = fldBytes P pg.checksum
  segCount : s.fbByte (b + 26) = BitVec.ofNat 8 pg.table.length
  table : s.fbBytes (b + 27) pg.table.length = pg.table
  payload : s.fbBytes (b + 27 + pg.table.length) pg.payload.length = pg.payload

/-- A page stands in the frame buffer exactly where its bytes do. -/
theorem State.holdsPage_iff {P : Params} (hmagic : P.magic.length = 4) (s : State) (b : Nat) (pg : Page) :
    s.HoldsPage P b pg ↔ s.fbBytes b pg.length = wireBytes P pg := by
  have bytes_iff : s.fbBytes b pg.length = wireBytes P pg ↔
      ((s.fbBytes b 4 = P.magic ∧ s.fbByte (b + 4) = 0 ∧ s.fbByte (b + 5) = typeCode P pg.pageType ∧
        s.fbBytes (b + 6) 8 = fldBytes P pg.granule ∧ s.fbBytes (b + 14) 4 = fldBytes P pg.streamId ∧
        s.fbBytes (b + 18) 4 = fldBytes P pg.packetIndex) ∧
      s.fbBytes (b + 22) 4 = fldBytes P pg.checksum ∧
      s.fbByte (b + 26) = BitVec.ofNat 8 pg.table.length ∧
      s.fbBytes (b + 27) pg.table.length = pg.table ∧
      s.fbBytes (b + 27 + pg.table.length) pg.payload.length = pg.payload) := by
    rw [← wireBytes_length hmagic]
    simp only [wireBytes, pageHead, pageTail, State.fbBytes, State.fbByte, readBytes_eq_append_iff]
    simp only [List.length_append, List.length_singleton, fldBytes_length, hmagic, readBytes_one,
      List.cons.injEq, and_true, Nat.add_assoc, Nat.reduceAdd, Nat.reduceDiv]
  rw [bytes_iff]
  constructor
  · intro h
    exact ⟨⟨h.magic, h.version, h.typeFlags, h.granule, h.streamId, h.packetIndex⟩, h.checksum, h.segCount,
      h.table, h.payload⟩
  · rintro ⟨⟨hm, hv, ht, hg, hs, hi⟩, hc, hn, htab, hpay⟩
    exact ⟨hm, hv, ht, hg, hs, hi, hc, hn, htab, hpay⟩

/-- The checksum of a page in the frame buffer is that of its bytes with a zeroed field (rule R102). -/
theorem State.HoldsPage.pageCrc_eq {P : Params} {s : State} {b : Nat} {pg : Page} (hmagic : P.magic.length = 4)
    (h : s.HoldsPage P b pg) : pageCrc P s.fb b pg.length = crc32 P (pageBytes P pg) := by
  have hbytes : readBytes .fb s.fb b pg.length = wireBytes P pg := (State.holdsPage_iff hmagic s b pg).mp h
  rw [pageCrc, hbytes, zeroChecksum_wireBytes hmagic]

/-! ### SERIALIZE (rule R113) -/

/-- The page as it is emitted: its checksum is recomputed (rule R113). -/
def Page.sealed (P : Params) (pg : Page) : Page := { pg with checksum := crc32 P (pageBytes P pg) }

/-- The zeroed page that SERIALIZE writes first has the checksum of the page's bytes. -/
theorem pageCrc_zeroed {P : Params} (hmagic : P.magic.length = 4) (pg : Page) (m : List Host.Cell) (b : Nat) :
    pageCrc P (writeEntries m b (pageBytes P pg)) b pg.length = crc32 P (pageBytes P pg) := by
  rw [pageCrc, ← pageBytes_length hmagic, readBytes_writeEntries_same, zeroChecksum_pageBytes hmagic]

theorem emitPage_checksum {P : Params} (hmagic : P.magic.length = 4) (pg : Page) (s : State) :
    (emitPage P pg s).checksum = (pg.sealed P).checksum :=
  pageCrc_zeroed hmagic pg s.fb s.flen.toNat

@[simp] theorem emitPage_err (P : Params) (pg : Page) (s : State) : (emitPage P pg s).err = s.err := rfl

@[simp] theorem emitPage_res (P : Params) (pg : Page) (s : State) :
    (emitPage P pg s).res = BitVec.ofNat 32 pg.length := rfl

theorem emitPage_fb {P : Params} (hmagic : P.magic.length = 4) (pg : Page) (s : State) :
    (emitPage P pg s).fb = writeEntries (writeEntries s.fb s.flen.toNat (pageBytes P pg)) (s.flen.toNat + 22)
      (fldBytes P (pg.sealed P).checksum) := by
  rw [← emitPage_checksum hmagic pg s]
  rfl

/-- SERIALIZE's writes leave the page, with its recomputed checksum, at the old FLEN (rule R113). -/
theorem emitPage_holdsPage {P : Params} (hmagic : P.magic.length = 4) (pg : Page) (s : State) :
    (emitPage P pg s).HoldsPage P s.flen.toNat (pg.sealed P) := by
  have written := readBytes_writeEntries_middle .fb s.fb s.flen.toNat (pageHead P pg) (pageTail pg)
    (y := [0, 0, 0, 0]) (fldBytes_length P (pg.sealed P).checksum)
  rw [State.holdsPage_iff hmagic, State.fbBytes, emitPage_fb hmagic, ← wireBytes_length hmagic, pageBytes_eq,
    ← pageHead_length hmagic pg]
  exact written

/-- Under the page invariant and with room for the page, SERIALIZE's checks pass (rule R113). -/
theorem serializeCheck_ok {P : Params} {s : State} (hinv : s.PageInvariant)
    (hroom : s.flen.toNat + (27 + s.nseg.toNat + s.dlen.toNat) ≤ P.fbSize) :
    serializeCheck P s = .ok s.page := by
  rw [serializeCheck, if_neg (not_not_intro hinv), if_neg (Nat.not_lt.mpr hroom)]

@[simp] theorem State.page_length (s : State) : s.page.length = 27 + s.nseg.toNat + s.dlen.toNat := by
  simp [Page.length, State.page]

/-- With ERR 0, the page invariant and room for the page, SERIALIZE emits the held page (rule R113). -/
theorem execWith_serialize_of_room {P : Params} {s : State} (herr : s.err = 0) (hinv : s.PageInvariant)
    (hroom : s.flen.toNat + (27 + s.nseg.toNat + s.dlen.toNat) ≤ P.fbSize) :
    execWith P .serialize s = .next (emitPage P s.page s) := by
  rw [execWith_of_clear P herr, effect, opSerialize, serializeCheck_ok hinv hroom, checked_ok]

/-! ### The parameters as inputs of a step (rules R8, R11) -/

/-- A step on a command that decodes runs its operation under the given parameters. -/
theorem stepWith_command (P : Params) {s : State} {code : Byte} {w : List Byte} {rest : List HostAccess}
    {i : Instr} (hnext : s.accesses = .command code w :: rest) (hdec : decode (transaction code w) = .ok i) :
    stepWith P s = execWith P i { s with accesses := rest } := by
  rw [stepWith, serveNext, hnext]
  change issue (execWith P) code w { s with accesses := rest } = _
  rw [issue, hdec]

/-- The operations other than the five that read a parameter of rule R8 are exec's under any parameters. -/
theorem execWith_eq_exec (P : Params) {i : Instr} (s : State) (hget : i ≠ .getChecksum)
    (hfill : i ≠ .fillChecksum) (hparse : i ≠ .parse) (hserialize : i ≠ .serialize)
    (happend : ∀ w, i ≠ .fbAppend w) : execWith P i s = exec i s := by
  cases i with
  | getChecksum => exact absurd rfl hget
  | fillChecksum => exact absurd rfl hfill
  | parse => exact absurd rfl hparse
  | serialize => exact absurd rfl hserialize
  | fbAppend w => exact absurd rfl (happend w)
  | new | clear | write | getSegments | lace | getLength | fbReset | fbCompact | clrErr | reset => rfl

/-- FB_APPEND reports how many bytes fit in a buffer of the given size (rule R115). -/
theorem opFbAppend_res {P : Params} (hsize : P.fbSize ≤ 4294967295) (w : List Byte) (s : State) :
    (opFbAppend P w s).res.toNat = min w.length (P.fbSize - s.flen.toNat) := by
  show (BitVec.ofNat 32 (appendAccepts P w s)).toNat = appendAccepts P w s
  have hfits : appendAccepts P w s ≤ P.fbSize - s.flen.toNat := Nat.min_le_right ..
  rw [BitVec.toNat_ofNat, Nat.mod_eq_of_lt (by omega)]

end Sys2Proof.Machine

namespace Sys2Proof.Claims

open Sys2Proof.Machine

/-! ### The number a field stands for (rules R36, R42) -/

theorem littleEndian_leBytes {n : Nat} (k : Nat) (v : BitVec n) :
    littleEndian (leBytes k v) = v.toNat % 256 ^ k := by
  induction k generalizing v with
  | zero => simp [leBytes, littleEndian, Nat.mod_one]
  | succ k ih =>
    calc littleEndian (leBytes (k + 1) v)
        = (v.setWidth 8).toNat + 256 * littleEndian (leBytes k (v >>> 8)) := rfl
      _ = v.toNat % 256 + 256 * (v.toNat / 256 % 256 ^ k) := by
        rw [ih, BitVec.toNat_setWidth, BitVec.toNat_ushiftRight, Nat.shiftRight_eq_div_pow]
      _ = v.toNat % 256 ^ (k + 1) := by rw [Nat.pow_succ', Nat.mod_mul]

/-- A field of whole bytes stands for the value laid out in it, in either byte order. -/
theorem fieldValue_fldBytes (P : Params) {n : Nat} (v : BitVec n) (h : n = 8 * (n / 8)) :
    fieldValue P (fldBytes P v) = v.toNat := by
  have hbound : v.toNat < 256 ^ (n / 8) := by
    calc v.toNat < 2 ^ n := v.isLt
      _ = 256 ^ (n / 8) := by rw [show (256 : Nat) = 2 ^ 8 from rfl, ← Nat.pow_mul, ← h]
  have hvalue : littleEndian (leBytes (n / 8) v) = v.toNat := by
    rw [littleEndian_leBytes, Nat.mod_eq_of_lt hbound]
  unfold fieldValue fldBytes
  cases P.byteOrder with
  | little => exact hvalue
  | big => rw [List.reverse_reverse]; exact hvalue

/-! ### The statements of spec/00_scope.md (rules R8, R9, R11) -/

/-- Settles O50: the emitted page stands at the old FLEN field by field, and each statement is one of its
fields. -/
theorem serializeFollowsTheParameters : Obligations.SerializeFollowsTheParameters := by
  intro P s hP herr hinv hroom
  obtain ⟨hmagic, -, -, -, -, hsize, -⟩ := hP
  have held := emitPage_holdsPage hmagic s.page s
  have hsum := emitPage_checksum hmagic s.page s
  have hres : (emitPage P s.page s).res.toNat = s.page.length := by
    rw [emitPage_res, BitVec.toNat_ofNat, State.page_length]
    omega
  refine ⟨emitPage P s.page s, execWith_serialize_of_room herr hinv hroom,
    (emitPage_err ..).trans herr, held.magic, ?_, ?_, ?_, ?_, ?_, ?_⟩
  · rw [held.typeFlags]
    rfl
  · rw [held.granule, fieldValue_fldBytes P _ rfl]
    rfl
  · rw [held.streamId, fieldValue_fldBytes P _ rfl]
    rfl
  · rw [held.packetIndex, fieldValue_fldBytes P _ rfl]
    rfl
  · rw [held.checksum, fieldValue_fldBytes P _ rfl, hsum]
  · rw [hsum, hres]
    exact (held.pageCrc_eq hmagic).symm

/-- Settles O49, from the laws of the step, of execWith and of FB_APPEND's count. -/
theorem parametersAreInputsOfTheStep : Obligations.ParametersAreInputsOfTheStep := by
  refine ⟨fun s => ?_, fun i s => ?_, ?_, ?_, ?_⟩
  · rw [stepWith_params]
  · rw [execWith_params]
  · intro P s code w rest i hnext hdec
    exact stepWith_command P hnext hdec
  · intro P i s hget hfill hparse hserialize happend
    exact execWith_eq_exec P s hget hfill hparse hserialize happend
  · rintro P s w ⟨-, -, -, -, -, hsize, -⟩ herr
    exact ⟨opFbAppend P w s, execWith_of_clear P herr (.fbAppend w), opFbAppend_res hsize w s⟩

end Sys2Proof.Claims
end

section
/-!
The accesses of the host, one rule each (rules R20, R21, R35, R40, R45, R52): what a command, a register access by
name or by index and a cell access do, which are served, and the inversion of `perform` that says once all that a
served access can do.
-/

namespace Sys2Proof.Machine

/-! ### What one access of the host does (rules R20, R21, R40, R67) -/

theorem issue_of_ok {ex : Executor} {code : Byte} {w : List Byte} {i : Instr}
    (h : decode (transaction code w) = .ok i) (s : State) : issue ex code w s = ex i s := by
  rw [issue, h]

theorem issue_of_error {ex : Executor} {code : Byte} {w : List Byte} {e : DecodeError}
    (h : decode (transaction code w) = .error e) (s : State) : issue ex code w s = execIllegal s := by
  rw [issue, h]

theorem writeNamed_of_ne_cmd {r : Reg} (h : r ≠ .cmd) (ex : Executor) (v : Word64) (s : State) :
    writeNamed ex r v s = .next (writeReg r v s) := by
  cases r with
  | cmd => exact absurd rfl h
  | arg | res | err | status | version | type | granule | streamId | packetIndex | checksum | nseg | dlen
    | flen | pos | nsub => rfl

theorem writeReg_type_of_some {v : Word64} {t : PageType} (h : typeOfBits (v.setWidth 2) = some t) (s : State) :
    writeReg .type v s = { s with pageType := t } := by
  simp only [writeReg, h]

theorem writeReg_type_of_none {v : Word64} (h : typeOfBits (v.setWidth 2) = none) (s : State) :
    writeReg .type v s = s := by
  simp only [writeReg, h]

theorem writeReg_pos_of_le {v : Word64} {s : State} (h : (v.setWidth 32).toNat ≤ s.flen.toNat) :
    writeReg .pos v s = { s with pos := v.setWidth 32 } :=
  if_pos h

theorem writeReg_pos_of_not_le {v : Word64} {s : State} (h : ¬ (v.setWidth 32).toNat ≤ s.flen.toNat) :
    writeReg .pos v s = s :=
  if_neg h

/-- The indices of rule R20's table are 0 to 16. -/
theorem regOfIndex_eq_none_iff (i : Nat) : regOfIndex i = none ↔ 16 < i := by
  constructor
  · intro h
    by_contra hle
    interval_cases i <;> cases h
  · intro h
    obtain ⟨j, rfl⟩ : ∃ j, i = j + 17 := ⟨i - 17, by omega⟩
    rfl

theorem writeIndexed_of_none {i : Nat} (h : regOfIndex i = none) (ex : Executor) (v : Word32) (s : State) :
    writeIndexed ex i v s = .refused (.noSuchRegister i) := by
  rw [writeIndexed, h]

/-- A write by index of a register that is not split is the write by name (rule R20). -/
theorem writeIndexed_of_reg {i : Nat} {r : Reg} (h : regOfIndex i = some r) (hr : r ≠ .granule)
    (ex : Executor) (v : Word32) (s : State) :
    writeIndexed ex i v s = writeNamed ex r (v.setWidth 64) s := by
  rw [writeIndexed, h]
  cases r with
  | granule => exact absurd rfl hr
  | cmd | arg | res | err | status | version | type | streamId | packetIndex | checksum | nseg | dlen
    | flen | pos | nsub => rfl

/-- GRANULE after a write of one of its two slots (rule R20). -/
def granuleSlot (i : Nat) (v : Word32) (g : Word64) : Word64 :=
  if i = 7 then g.extractLsb' 32 32 ++ v else v ++ g.setWidth 32

/-- A write of a half of GRANULE is the write of GRANULE with that half replaced (rule R20). -/
theorem writeIndexed_of_granule {i : Nat} (h : regOfIndex i = some .granule) (ex : Executor) (v : Word32)
    (s : State) : writeIndexed ex i v s = .next (writeReg .granule (granuleSlot i v s.granule) s) := by
  rw [writeIndexed, h]
  rfl

theorem readIndexed_of_none {i : Nat} (h : regOfIndex i = none) (s : State) :
    readIndexed i s = .refused (.noSuchRegister i) := by
  rw [readIndexed, h]

/-- A read by index of a register that is not split is the read by name (rule R20). -/
theorem readIndexed_of_reg {i : Nat} {r : Reg} (h : regOfIndex i = some r) (hr : r ≠ .granule) (s : State) :
    readIndexed i s = .next (readReg r s) := by
  rw [readIndexed, h]
  cases r with
  | granule => exact absurd rfl hr
  | cmd | arg | res | err | status | version | type | streamId | packetIndex | checksum | nseg | dlen
    | flen | pos | nsub => rfl

/-- The half of GRANULE in one of its two slots (rule R20). -/
def granuleHalf (i : Nat) (g : Word64) : Word64 :=
  if i = 7 then (g.setWidth 32).setWidth 64 else (g.extractLsb' 32 32).setWidth 64

theorem readIndexed_of_granule {i : Nat} (h : regOfIndex i = some .granule) (s : State) :
    readIndexed i s = .next (answer (.value (granuleHalf i s.granule)) s) := by
  rw [readIndexed, h]
  rfl

theorem writeCell_segtab (P : Params) {i : Nat} (h : i < 255) (v : Byte) (s : State) :
    writeCell P .segtab i v s = .next (writeSegtab i v s) := by
  have hi : cellIndexOk P .segtab i = true := decide_eq_true h
  rw [writeCell, if_pos hi]
  rfl

/-- Only the cells of SEGTAB are written by the host; every other cell write is refused (log entry 10). -/
theorem writeCell_cases (P : Params) (sp : Space) (i : Nat) (v : Byte) (s : State) :
    (sp = .segtab ∧ i < 255 ∧ writeCell P sp i v s = .next (writeSegtab i v s)) ∨
    (¬ (sp = .segtab ∧ i < 255) ∧ ∃ r, writeCell P sp i v s = .refused r) := by
  by_cases h : sp = .segtab ∧ i < 255
  · obtain ⟨rfl, hi⟩ := h
    exact .inl ⟨rfl, hi, writeCell_segtab P hi v s⟩
  · refine .inr ⟨h, ?_⟩
    rw [writeCell]
    split
    · next hin =>
      have hro : hostWritable sp = false := by
        cases sp with
        | segtab => exact absurd ⟨rfl, of_decide_eq_true hin⟩ h
        | data | fb | subseg => rfl
      exact ⟨_, if_neg (by simp [hro])⟩
    · exact ⟨_, rfl⟩

/-- A read of a valid cell answers its content (rule R52). -/
theorem readCell_valid {P : Params} {sp : Space} {i : Nat} {s : State} (hin : i < sp.size P)
    (hvalid : i < validCells sp s) : readCell P sp i s = .next (answer (cellData sp i s) s) := by
  have hi : cellIndexOk P sp i = true := decide_eq_true hin
  rw [readCell, if_pos hi, if_pos hvalid]

/-- A read of a cell in its memory's index range that is not valid answers a free value (rule R52, U8). -/
theorem readCell_invalid {P : Params} {sp : Space} {i : Nat} {s : State} (hin : i < sp.size P)
    (hvalid : ¬ i < validCells sp s) : readCell P sp i s = .next (answerFree (freeCellData sp) s) := by
  have hi : cellIndexOk P sp i = true := decide_eq_true hin
  rw [readCell, if_pos hi, if_neg hvalid]

theorem readCell_refused {P : Params} {sp : Space} {i : Nat} (hout : ¬ i < sp.size P) (s : State) :
    readCell P sp i s = .refused (.noSuchCell sp i) := by
  have hi : ¬ cellIndexOk P sp i = true := fun h => hout (of_decide_eq_true h)
  rw [readCell, if_neg hi]

theorem readReg_frame (r : Reg) (s : State) :
    readReg r s = { s with hostData := (readReg r s).hostData, freeReads := (readReg r s).freeReads } := by
  unfold readReg
  split <;> rfl

theorem readIndexed_frame {i : Nat} {s t : State} (h : readIndexed i s = .next t) :
    t = { s with hostData := t.hostData, freeReads := t.freeReads } := by
  cases hreg : regOfIndex i with
  | none =>
    rw [readIndexed_of_none hreg] at h
    cases h
  | some r =>
    by_cases hr : r = .granule
    · subst hr
      rw [readIndexed_of_granule hreg] at h
      cases h
      rfl
    · rw [readIndexed_of_reg hreg hr] at h
      cases h
      exact readReg_frame r s

theorem readCell_frame {P : Params} {sp : Space} {i : Nat} {s t : State} (h : readCell P sp i s = .next t) :
    t = { s with hostData := t.hostData, freeReads := t.freeReads } := by
  by_cases hin : i < sp.size P
  · by_cases hvalid : i < validCells sp s
    · rw [readCell_valid hin hvalid] at h
      cases h
      rfl
    · rw [readCell_invalid hin hvalid] at h
      cases h
      rfl
  · rw [readCell_refused hin] at h
    cases h

/-! ### Words and halves of words (rule R20) -/

/-- A register of `n` bits written from a host word and read back is the word cut to its width. -/
theorem setWidth_setWidth_eq_ofNat_mod (n : Nat) (v : Word64) :
    (v.setWidth n).setWidth 64 = BitVec.ofNat 64 (v.toNat % 2 ^ n) := by
  rw [← BitVec.toNat_setWidth, BitVec.ofNat_toNat]

theorem toNat_append_eq_add {m n : Nat} (x : BitVec m) (y : BitVec n) :
    (x ++ y).toNat = x.toNat * 2 ^ n + y.toNat := by
  rw [BitVec.toNat_append, ← Nat.shiftLeft_add_eq_or_of_lt y.isLt, Nat.shiftLeft_eq]

theorem toNat_highHalf (g : Word64) : (g.extractLsb' 32 32).toNat = g.toNat / 2 ^ 32 := by
  have := g.isLt
  rw [BitVec.extractLsb'_toNat, Nat.shiftRight_eq_div_pow]
  omega

/-- A write of slot 7 replaces the low half of GRANULE. -/
theorem toNat_granuleSlot_low (v : Word32) (g : Word64) :
    (granuleSlot 7 v g).toNat = g.toNat / 2 ^ 32 * 2 ^ 32 + v.toNat := by
  rw [granuleSlot, if_pos rfl, toNat_append_eq_add, toNat_highHalf]

/-- A write of slot 8 replaces the high half of GRANULE. -/
theorem toNat_granuleSlot_high (v : Word32) (g : Word64) :
    (granuleSlot 8 v g).toNat = v.toNat * 2 ^ 32 + g.toNat % 2 ^ 32 := by
  rw [granuleSlot, if_neg (by decide), toNat_append_eq_add, BitVec.toNat_setWidth]

theorem granuleHalf_low (g : Word64) : granuleHalf 7 g = BitVec.ofNat 64 (g.toNat % 2 ^ 32) := by
  rw [granuleHalf, if_pos rfl, setWidth_setWidth_eq_ofNat_mod]

theorem granuleHalf_high (g : Word64) : granuleHalf 8 g = BitVec.ofNat 64 (g.toNat / 2 ^ 32) := by
  rw [granuleHalf, if_neg (by decide), ← toNat_highHalf, BitVec.ofNat_toNat]

/-! ### TYPE's two bits (rule R13) -/

theorem typeOfBits_illegal {b : BitVec 2} (h : b.toNat = 3) : typeOfBits b = none := by
  revert b
  decide

/-- A legal code of TYPE names a page type, whose two bits it is. -/
theorem typeOfBits_legal {b : BitVec 2} (h : b.toNat ≠ 3) : ∃ t, typeOfBits b = some t ∧ typeBits t = b := by
  have hcases : b = 0 ∨ b = 1 ∨ b = 2 := by
    revert b
    decide
  rcases hcases with rfl | rfl | rfl
  · exact ⟨.continuation, rfl, rfl⟩
  · exact ⟨.beginOfStream, rfl, rfl⟩
  · exact ⟨.endOfStream, rfl, rfl⟩

/-! ### Register reads (rules R20, R21, R34) -/

theorem readReg_of_regValue {r : Reg} {s : State} {v : Word64} (h : regValue r s = some v) :
    readReg r s = answer (.value v) s := by
  rw [readReg, h]

/-- Every register that has a value reads 0 after power-on (rule R34). -/
theorem regValue_reset {r : Reg} (h : r ≠ .cmd) : regValue r State.reset = some 0 := by
  cases r with
  | cmd => exact absurd rfl h
  | arg | res | err | status | version | type | granule | streamId | packetIndex | checksum | nseg | dlen
    | flen | pos | nsub => rfl

/-- After RESET every register reads as after power-on (rule R181). -/
theorem regValue_opReset (r : Reg) (s : State) : regValue r (opReset s) = regValue r State.reset := by
  cases r <;> rfl

theorem validCells_reset (sp : Space) : validCells sp State.reset = 0 := by
  cases sp <;> rfl

theorem validCells_opReset (sp : Space) (s : State) : validCells sp (opReset s) = 0 := by
  cases sp <;> rfl

/-! ### Which accesses are served (rules R20, R40, U6) -/

theorem exec_total (i : Instr) (s : State) : ∃ t, exec i s = .next t := by
  rcases exec_cases i s with h | ⟨-, h⟩ <;> exact ⟨_, h⟩

theorem issue_total (code : Byte) (w : List Byte) (s : State) : ∃ t, issue exec code w s = .next t := by
  cases hdec : decode (transaction code w) with
  | ok i =>
    rw [issue_of_ok hdec]
    exact exec_total i s
  | error e => exact ⟨_, issue_of_error hdec s⟩

theorem writeNamed_total (r : Reg) (v : Word64) (s : State) : ∃ t, writeNamed exec r v s = .next t := by
  by_cases hr : r = .cmd
  · subst hr
    exact issue_total _ [] s
  · exact ⟨_, writeNamed_of_ne_cmd hr exec v s⟩

theorem writeIndexed_total {i : Nat} (h : i ≤ 16) (v : Word32) (s : State) :
    ∃ t, writeIndexed exec i v s = .next t := by
  cases hreg : regOfIndex i with
  | none => exact absurd ((regOfIndex_eq_none_iff i).mp hreg) (Nat.not_lt.mpr h)
  | some r =>
    by_cases hr : r = .granule
    · subst hr
      exact ⟨_, writeIndexed_of_granule hreg exec v s⟩
    · rw [writeIndexed_of_reg hreg hr]
      exact writeNamed_total r _ s

theorem readIndexed_total {i : Nat} (h : i ≤ 16) (s : State) : ∃ t, readIndexed i s = .next t := by
  cases hreg : regOfIndex i with
  | none => exact absurd ((regOfIndex_eq_none_iff i).mp hreg) (Nat.not_lt.mpr h)
  | some r =>
    by_cases hr : r = .granule
    · subst hr
      exact ⟨_, readIndexed_of_granule hreg s⟩
    · exact ⟨_, readIndexed_of_reg hreg hr s⟩

theorem perform_readCell_valid {sp : Space} {i : Nat} {s : State} (hin : i < sp.size Config.params)
    (hvalid : i < validCells sp s) : perform (.readCell sp i) s = .next (answer (cellData sp i s) s) :=
  readCell_valid hin hvalid

theorem readCell_total {P : Params} {sp : Space} {i : Nat} (h : i < sp.size P) (s : State) :
    ∃ t, readCell P sp i s = .next t := by
  by_cases hvalid : i < validCells sp s
  · exact ⟨_, readCell_valid h hvalid⟩
  · exact ⟨_, readCell_invalid h hvalid⟩

/-! ### The inversion of an access and of a step (rules R48, R67) -/

/-- Everything that serving one access of the host can do to the block. -/
inductive Served (s : State) : State → Prop where
  | operation (i : Instr) {t : State} (h : exec i s = .next t) : Served s t
  | illegal (h : s.err = 0) : Served s (raise .illegalCommand s)
  | ignored : Served s s
  | register (r : Reg) (v : Word64) : Served s (writeReg r v s)
  | cell {i : Nat} (h : i < 255) (v : Byte) : Served s (writeSegtab i v s)
  | answered (d : Option ReadData) (n : Nat) : Served s { s with hostData := d, freeReads := n }

theorem served_of_issue {code : Byte} {w : List Byte} {s t : State} (h : issue exec code w s = .next t) :
    Served s t := by
  cases hdec : decode (transaction code w) with
  | ok i => exact .operation i ((issue_of_ok hdec s).symm.trans h)
  | error e =>
    rw [issue_of_error hdec] at h
    rcases gated_cases h with ⟨herr, rfl⟩ | ⟨-, rfl⟩
    · exact .illegal herr
    · exact .ignored

theorem served_of_writeNamed {r : Reg} {v : Word64} {s t : State} (h : writeNamed exec r v s = .next t) :
    Served s t := by
  by_cases hr : r = .cmd
  · subst hr
    exact served_of_issue h
  · rw [writeNamed_of_ne_cmd hr] at h
    cases h
    exact .register r v

theorem served_of_writeIndexed {i : Nat} {v : Word32} {s t : State} (h : writeIndexed exec i v s = .next t) :
    Served s t := by
  cases hreg : regOfIndex i with
  | none =>
    rw [writeIndexed_of_none hreg] at h
    cases h
  | some r =>
    by_cases hr : r = .granule
    · subst hr
      rw [writeIndexed_of_granule hreg] at h
      cases h
      exact .register ..
    · rw [writeIndexed_of_reg hreg hr] at h
      exact served_of_writeNamed h

/-- The inversion of `perform`: a served access does one of the listed things. -/
theorem served_of_perform {a : HostAccess} {s t : State} (h : perform a s = .next t) : Served s t := by
  have answered : t = { s with hostData := t.hostData, freeReads := t.freeReads } → Served s t :=
    fun hframe => hframe ▸ .answered ..
  cases a with
  | command code w => exact served_of_issue h
  | writeReg r v => exact served_of_writeNamed h
  | readReg r =>
    cases h
    exact answered (readReg_frame r s)
  | writeIndex i v => exact served_of_writeIndexed h
  | readIndex i => exact answered (readIndexed_frame h)
  | writeCell sp i v =>
    rcases writeCell_cases Config.params sp i v s with ⟨-, hi, hnext⟩ | ⟨-, r, hrefused⟩
    · cases hnext.symm.trans h
      exact .cell hi v
    · cases hrefused.symm.trans h
  | readCell sp i => exact answered (readCell_frame h)

theorem step_of_cons {s : State} {a : HostAccess} {rest : List HostAccess} (h : s.accesses = a :: rest) :
    step s = perform a { s with accesses := rest } := by
  rw [step, serveNext, h]

theorem step_of_nil {s : State} (h : s.accesses = []) : step s = .next s := by
  rw [step, serveNext, h]

end Sys2Proof.Machine
end

section
/-!
What the checks of the operations let through and what they raise (rules R90, R94, R112, R113, R161), and how many
sub-segments a table has.
-/

namespace Sys2Proof.Machine

/-! ### The flags: what leaves each as it is (rules R25, R163, R167, R181) -/

@[simp] theorem raise_lenv (k : ErrKind) (s : State) : (raise k s).lenv = s.lenv := rfl
@[simp] theorem raise_openRun (k : ErrKind) (s : State) : (raise k s).openRun = s.openRun := rfl
@[simp] theorem clearError_lenv (s : State) : (clearError s).lenv = s.lenv := rfl
@[simp] theorem clearError_openRun (s : State) : (clearError s).openRun = s.openRun := rfl

/-- OPEN's update leaves bit 0 of STATUS, which is LENV; LENV's leaves bit 1, which is OPEN (rule R25). -/
@[simp] theorem setOpen_status_zero (b : Bool) (s : State) : (setOpen b s).status[0] = s.status[0] :=
  setOpen_lenv b s

@[simp] theorem dropSubSegs_status_zero (s : State) : (dropSubSegs s).status[0] = s.status[0] :=
  dropSubSegs_lenv s

@[simp] theorem setLenv_status_one (b : Bool) (s : State) : (setLenv b s).status[1] = s.status[1] :=
  setLenv_openRun b s

@[simp] theorem opReset_openRun (s : State) : (opReset s).openRun = false := by
  simp [opReset, State.openRun]

/-! ### What the checks of the operations find (rules R90, R94, R112, R113, R161) -/

theorem laceCheck_error {s : State} {k : ErrKind} (h : laceCheck s = .error k) : k = .capacityExceeded := by
  unfold laceCheck at h
  split at h <;> cases h
  rfl

theorem segmentsCheck_error {s : State} {k : ErrKind} (h : segmentsCheck s = .error k) : k = .pageInvariant := by
  unfold segmentsCheck at h
  split at h <;> cases h
  rfl

theorem serializeCheck_error {P : Params} {s : State} {k : ErrKind} (h : serializeCheck P s = .error k) :
    k = .pageInvariant ∨ k = .capacityExceeded := by
  unfold serializeCheck at h
  split at h
  · cases h
    exact .inl rfl
  · split at h <;> cases h
    exact .inr rfl

theorem parsePage_error {P : Params} {s : State} {k : ErrKind} (h : parsePage P s = .error k) :
    k = .truncated ∨ k = .malformedHeader ∨ k = .checksumMismatch := by
  have kind : ∀ {k' : ErrKind}, (.error k' : Except ErrKind Page) = .error k → k = k' := fun heq =>
    (Except.error.inj heq).symm
  simp only [parsePage] at h
  split at h; · exact .inl (kind h)
  split at h; · exact .inr (.inl (kind h))
  split at h; · exact .inr (.inl (kind h))
  split at h; · exact .inr (.inl (kind h))
  split at h; · exact .inl (kind h)
  split at h; · exact .inl (kind h)
  split at h
  · exact .inr (.inr (kind h))
  · cases h

/-- LACE's check lets `lace(ARG)` through (rule R94). -/
theorem laceCheck_ok {s : State} {t : List Byte} (h : laceCheck s = .ok t) : lace s.arg.toNat = some t := by
  unfold laceCheck at h
  split at h <;> cases h
  assumption

/-- GET_SEGMENTS's check lets the list of the table through, under the page invariant (rule R90). -/
theorem segmentsCheck_ok {s : State} {l : List SubSeg} (h : segmentsCheck s = .ok l) :
    s.PageInvariant ∧ l = subSegments s.table := by
  unfold segmentsCheck at h
  split at h <;> cases h
  exact ⟨by assumption, rfl⟩

/-- SERIALIZE's checks let the held page through, under the page invariant and where it fits (rule R113). -/
theorem serializeCheck_eq_ok {P : Params} {s : State} {pg : Page} (h : serializeCheck P s = .ok pg) :
    s.PageInvariant ∧ s.flen.toNat + (27 + s.nseg.toNat + s.dlen.toNat) ≤ P.fbSize ∧ pg = s.page := by
  unfold serializeCheck at h
  split at h
  · cases h
  · split at h <;> cases h
    exact ⟨not_not.mp (by assumption), by omega, rfl⟩

/-- Everything GET_LENGTH can do: it writes RES and LENV (rule R111). -/
theorem opGetLength_cases (s : State) : ∃ b r, opGetLength s = setLenv b { s with res := r } := by
  unfold opGetLength
  split <;> exact ⟨_, _, rfl⟩

/-- What PARSE's checks 1 to 7 let through: the page at the cursor (rule R112). -/
theorem parsePage_ok {P : Params} {s : State} {pg : Page} (h : parsePage P s = .ok pg) :
    s.fbBytes s.pos.toNat 4 = P.magic ∧ s.fbByte (s.pos.toNat + 4) = 0 ∧
    (∃ t, typeDecode P (s.fbByte (s.pos.toNat + 5)) = some t ∧
      pg = pageAt P s s.pos.toNat (s.fbByte (s.pos.toNat + 26)).toNat t) ∧
    pg.length ≤ s.avail s.pos.toNat ∧ pageCrc P s.fb s.pos.toNat pg.length = pg.checksum := by
  have pageAt_length : ∀ t, (pageAt P s s.pos.toNat (s.fbByte (s.pos.toNat + 26)).toNat t).length =
      27 + (s.fbByte (s.pos.toNat + 26)).toNat +
        sumTable (pageAt P s s.pos.toNat (s.fbByte (s.pos.toNat + 26)).toNat t).table := fun t => by
    simp [Page.length, pageAt]
  simp only [parsePage] at h
  split at h; · cases h
  split at h; · cases h
  next hmagic =>
  split at h; · cases h
  next hversion =>
  split at h; · cases h
  next t ht =>
  split at h; · cases h
  split at h; · cases h
  next hroom =>
  split at h; · cases h
  next hcrc =>
  cases h
  rw [pageAt_length]
  exact ⟨not_not.mp hmagic, not_not.mp hversion, ⟨t, ht, rfl⟩, by omega, not_not.mp hcrc⟩

/-- A page read from the frame buffer is within the sizes of a page, and its table sums to its payload. -/
theorem pageAt_bounds (P : Params) (s : State) (p : Nat) (n : Byte) (t : PageType) :
    (pageAt P s p n.toNat t).table.length ≤ 255 ∧ (pageAt P s p n.toNat t).payload.length ≤ 65025 ∧
      (pageAt P s p n.toNat t).payload.length = sumTable (pageAt P s p n.toNat t).table := by
  have hsum := sumTable_fbBytes_le s (p + 27) n
  have := n.isLt
  simp only [pageAt, State.fbBytes_length]
  exact ⟨by omega, hsum, trivial⟩

theorem lace_length_le {l : Nat} {t : List Byte} (h : lace l = some t) : t.length ≤ 255 := by
  unfold lace at h
  split at h
  · cases h
    simp only [List.length_append, List.length_replicate, List.length_singleton]
    omega
  · split at h <;> cases h
    exact (List.length_replicate ..).le

/-! ### How many sub-segments a table has (rules R90, R91) -/

theorem endsOpen_cons_of_lt {v : Byte} (h : v.toNat < 255) (t : List Byte) : endsOpen (v :: t) = endsOpen t := by
  cases t with
  | nil =>
    have hne : v ≠ 255#8 := by
      rintro rfl
      exact absurd h (by decide)
    simp [endsOpen, hne]
  | cons u t => simp [endsOpen]

/-- Every terminated sub-segment takes an entry of the table, and so does an unterminated run. -/
theorem scanTable_length_le (t : List Byte) (start run : Nat) :
    (scanTable t start run).1.length + (endsOpen t).toNat ≤ t.length := by
  induction t generalizing start run with
  | nil => simp [scanTable, endsOpen]
  | cons v t ih =>
    unfold scanTable
    split
    · next hv =>
      have := ih (start + (run + v.toNat)) 0
      simp only [endsOpen_cons_of_lt hv, List.length_cons]
      omega
    · have := ih start (run + v.toNat)
      have := (endsOpen (v :: t)).toNat_le
      simp only [List.length_cons]
      omega

theorem subSegments_length (t : List Byte) :
    (subSegments t).length = (scanTable t 0 0).1.length + (endsOpen t).toNat := by
  unfold subSegments
  cases endsOpen t <;> simp

theorem subSegments_length_le (t : List Byte) : (subSegments t).length ≤ t.length :=
  (subSegments_length t).trans_le (scanTable_length_le t 0 0)

/-- An unterminated run is a sub-segment, so a table that ends in one has some. -/
theorem subSegments_length_pos {t : List Byte} (h : endsOpen t = true) : 0 < (subSegments t).length := by
  rw [subSegments_length, h]
  exact Nat.succ_pos _

theorem readSub_writeEntries_all (m : List (Nat × SubSeg)) (l : List SubSeg) :
    (List.range l.length).map (readSub (writeEntries m 0 l)) = l := by
  refine List.ext_getElem (by simp) fun k hk hl => ?_
  have hentry : entryAt (writeEntries m 0 l) k = some l[k] := by
    rw [entryAt_writeEntries_inside (Nat.zero_le k) (by omega), Nat.sub_zero, List.getElem?_eq_getElem hl]
  simp [readSub, hentry]

end Sys2Proof.Machine
end

section
/-!
The machine's invariant (rules R27, R32, R40), memory by memory: what each operation and each access of the host keeps
of it.
-/

namespace Sys2Proof.Machine

/-! ### A memory whose first `n` cells are valid -/

/-- A canonical memory of `size` cells whose first `n` have been written (rules R28 to R31, R40). -/
structure Filled {α : Type} (m : List (Nat × α)) (size n : Nat) : Prop where
  wf : Memory.wf m
  inside : ∀ c ∈ m, c.1 < size
  le : n ≤ size
  written : ∀ a < n, (entryAt m a).isSome

theorem Filled.mono {α : Type} {m : List (Nat × α)} {size n k : Nat} (h : Filled m size n) (hk : k ≤ n) :
    Filled m size k :=
  ⟨h.wf, h.inside, hk.trans h.le, fun a ha => h.written a (ha.trans_le hk)⟩

/-- A write inside the memory keeps the valid cells, and makes more of them valid where it leaves no gap. -/
theorem Filled.write {α : Type} {m : List (Nat × α)} {size n base k : Nat} {vs : List α} (h : Filled m size n)
    (hin : base + vs.length ≤ size) (hk : k ≤ n ∨ (base ≤ n ∧ k ≤ base + vs.length)) :
    Filled (writeEntries m base vs) size k where
  wf := writeEntries_wf h.wf base vs
  inside := writeEntries_lt h.inside (.inr hin)
  le := by
    have := h.le
    omega
  written a ha := by
    refine isSome_entryAt_writeEntries ?_
    by_cases hrange : base ≤ a ∧ a < base + vs.length
    · exact .inr hrange
    · exact .inl (h.written a (by omega))

/-! ### The invariant, memory by memory -/

/-- The error kinds that the block raises; the other two are the host software's (rule R160). -/
def ErrKind.OfBlock (k : ErrKind) : Prop := k ≠ .sinkFailure ∧ k ≠ .sourceFailure

/-- The values of ERR: 0 or the code of a kind the block raises (rule R160). -/
def BlockCode (e : BitVec 4) : Prop :=
  e.toNat ≤ 8 ∧ e ≠ ErrKind.sinkFailure.code ∧ e ≠ ErrKind.sourceFailure.code

theorem blockCode_zero : BlockCode 0 := by
  unfold BlockCode
  decide

theorem ErrKind.OfBlock.blockCode {k : ErrKind} (h : k.OfBlock) : BlockCode k.code := by
  obtain ⟨hsink, hsource⟩ := h
  unfold BlockCode
  cases k with
  | sinkFailure => exact absurd rfl hsink
  | sourceFailure => exact absurd rfl hsource
  | malformedHeader | checksumMismatch | truncated | capacityExceeded | pageInvariant | illegalCommand => decide

/-- The machine's invariant, its parts about one memory together (see `State.inv_iff_sound`). -/
structure State.Sound (s : State) : Prop where
  segtab : Filled s.segtab 255 0
  data : Filled s.data 65025 s.dlen.toNat
  fb : Filled s.fb Config.fbSize s.flen.toNat
  subseg : Filled s.subseg 255 s.nsub.toNat
  pos : s.pos.toNat ≤ s.flen.toNat
  err : BlockCode s.err
  fresh : s.SubSegsFresh

theorem State.inv_iff_sound (s : State) : s.Inv ↔ s.Sound := by
  constructor
  · rintro ⟨hmem, hreg, hwritten, hfresh⟩
    have hnsub := s.nsub.isLt
    exact ⟨⟨hmem.segtab_wf, hmem.segtab_in, Nat.zero_le _, fun _ ha => absurd ha (Nat.not_lt_zero _)⟩,
      ⟨hmem.data_wf, hmem.data_in, hreg.dlen_le, hwritten.data_written⟩,
      ⟨hmem.fb_wf, hmem.fb_in, hreg.flen_le, hwritten.fb_written⟩,
      ⟨hmem.subseg_wf, hmem.subseg_in, by omega, hwritten.subseg_written⟩, hreg.pos_le, hreg.err_ok, hfresh⟩
  · intro h
    exact ⟨⟨h.segtab.wf, h.data.wf, h.fb.wf, h.subseg.wf, h.segtab.inside, h.data.inside, h.fb.inside,
      h.subseg.inside⟩, ⟨h.data.le, h.pos, h.fb.le, h.err⟩,
      ⟨h.data.written, h.fb.written, h.subseg.written⟩, h.fresh⟩

/-- Two states that agree on the page, its payload and its sub-segments, and so on all that the invariant says of
them. -/
structure State.SamePage (s t : State) : Prop where
  segtab : t.segtab = s.segtab
  nseg : t.nseg = s.nseg
  data : t.data = s.data
  dlen : t.dlen = s.dlen
  subseg : t.subseg = s.subseg
  nsub : t.nsub = s.nsub
  openRun : t.openRun = s.openRun

theorem State.SubSegsFresh.of_samePage {s t : State} (h : s.SubSegsFresh) (hp : s.SamePage t) :
    t.SubSegsFresh := by
  have htable : t.table = s.table := by rw [State.table, State.table, hp.segtab, hp.nseg]
  have hsubs : t.subSegs = s.subSegs := by rw [State.subSegs, State.subSegs, hp.subseg, hp.nsub]
  constructor
  · rw [hp.nsub, htable, hp.dlen, hsubs]
    exact h.listed
  · rw [hp.openRun, hp.nsub, htable]
    exact h.opened

/-- What does not touch the page keeps the invariant where it keeps its part about the frame buffer and ERR. -/
theorem State.Sound.of_samePage {s t : State} (h : s.Sound) (hp : s.SamePage t)
    (hfb : Filled t.fb Config.fbSize t.flen.toNat) (hpos : t.pos.toNat ≤ t.flen.toNat) (herr : BlockCode t.err) :
    t.Sound where
  segtab := hp.segtab ▸ h.segtab
  data := hp.data ▸ hp.dlen ▸ h.data
  fb := hfb
  subseg := hp.subseg ▸ hp.nsub ▸ h.subseg
  pos := hpos
  err := herr
  fresh := h.fresh.of_samePage hp

/-- What drops the sub-segments keeps the invariant whatever it does to the page within its memories' sizes. -/
theorem State.sound_of_dropped {t : State} (hnsub : t.nsub = 0) (hopen : t.openRun = false)
    (hsegtab : Filled t.segtab 255 0) (hdata : Filled t.data 65025 t.dlen.toNat) (hsubseg : Filled t.subseg 255 0)
    (hfb : Filled t.fb Config.fbSize t.flen.toNat) (hpos : t.pos.toNat ≤ t.flen.toNat) (herr : BlockCode t.err) :
    t.Sound where
  segtab := hsegtab
  data := hdata
  fb := hfb
  subseg := by rw [hnsub]; exact hsubseg
  pos := hpos
  err := herr
  fresh := ⟨fun h => absurd hnsub h, fun h => by rw [hopen] at h; cases h⟩

/-! ### Every operation keeps the invariant -/

section
variable {s : State}

theorem State.Sound.raise (h : s.Sound) {k : ErrKind} (hk : k.OfBlock) : (raise k s).Sound :=
  h.of_samePage ⟨rfl, rfl, rfl, rfl, rfl, rfl, rfl⟩ h.fb h.pos hk.blockCode

/-- A checked operation keeps the invariant where its errors are the block's and its commit keeps it. -/
theorem State.Sound.checked (h : s.Sound) {α : Type} {check : Except ErrKind α} {commit : α → State → State}
    (hkind : ∀ k, check = .error k → k.OfBlock) (hcommit : ∀ a, check = .ok a → (commit a s).Sound) :
    (checked check commit s).Sound := by
  rcases checked_cases check commit s with ⟨k, hk, heq⟩ | ⟨a, ha, heq⟩
  · exact heq ▸ h.raise (hkind k hk)
  · exact heq ▸ hcommit a ha

theorem State.Sound.opNew (h : s.Sound) : (opNew s).Sound :=
  State.sound_of_dropped rfl (dropSubSegs_openRun _) h.segtab (h.data.mono (Nat.zero_le _))
    (h.subseg.mono (Nat.zero_le _)) h.fb h.pos h.err

theorem State.Sound.opClear (h : s.Sound) : (opClear s).Sound :=
  State.sound_of_dropped rfl (dropSubSegs_openRun _) h.segtab (h.data.mono (Nat.zero_le _))
    (h.subseg.mono (Nat.zero_le _)) h.fb h.pos h.err

theorem State.Sound.opReset (h : s.Sound) : (opReset s).Sound :=
  State.sound_of_dropped rfl (opReset_openRun s) h.segtab (h.data.mono (Nat.zero_le _)) (h.subseg.mono (Nat.zero_le _))
    (h.fb.mono (Nat.zero_le _)) (Nat.le_refl _) blockCode_zero

theorem State.Sound.opWrite (h : s.Sound) (w : List Byte) : (opWrite w s).Sound := by
  have hle := h.data.le
  have haccepts : writeAccepts w s ≤ w.length ∧ s.dlen.toNat + writeAccepts w s ≤ 65025 := by
    unfold writeAccepts
    omega
  have hlen : (w.take (writeAccepts w s)).length = writeAccepts w s := by
    rw [List.length_take]
    omega
  have hdlen : (Machine.opWrite w s).dlen.toNat = s.dlen.toNat + writeAccepts w s := by
    change (BitVec.ofNat 17 (s.dlen.toNat + writeAccepts w s)).toNat = _
    rw [BitVec.toNat_ofNat, Nat.mod_eq_of_lt (by omega)]
  refine State.sound_of_dropped rfl (dropSubSegs_openRun _) h.segtab ?_ (h.subseg.mono (Nat.zero_le _))
    h.fb h.pos h.err
  rw [hdlen]
  exact h.data.write (by omega) (.inr ⟨Nat.le_refl _, by omega⟩)

theorem State.Sound.opGetSegments (h : s.Sound) : (opGetSegments s).Sound := by
  refine h.checked (fun k hk => ?_) fun l hl => ?_
  · cases segmentsCheck_error hk
    exact ⟨by decide, by decide⟩
  · obtain ⟨hinv, rfl⟩ := segmentsCheck_ok hl
    have hle : (subSegments s.table).length ≤ 255 := by
      have := subSegments_length_le s.table
      have := s.nseg.isLt
      rw [State.table_length] at *
      omega
    have hnsub : (listSegments (subSegments s.table) s).nsub.toNat = (subSegments s.table).length := by
      change (BitVec.ofNat 8 (subSegments s.table).length).toNat = _
      rw [BitVec.toNat_ofNat, Nat.mod_eq_of_lt (by omega)]
    have hsubs : (listSegments (subSegments s.table) s).subSegs = subSegments s.table := by
      rw [State.subSegs, hnsub]
      exact readSub_writeEntries_all s.subseg _
    refine ⟨h.segtab, h.data, h.fb, ?_, h.pos, h.err, fun _ => ⟨hinv, hsubs⟩, fun hopen => ?_⟩
    · rw [hnsub]
      exact h.subseg.write (by omega) (.inr ⟨Nat.zero_le _, by omega⟩)
    · have hends : endsOpen s.table = true := (setOpen_openRun _ _).symm.trans hopen
      refine ⟨fun hzero => ?_, hends⟩
      have := subSegments_length_pos hends
      rw [hzero] at hnsub
      exact absurd hnsub.symm (Nat.ne_of_gt this)

theorem State.Sound.opLace (h : s.Sound) : (opLace s).Sound := by
  refine h.checked (fun k hk => ?_) fun t ht => ?_
  · cases laceCheck_error hk
    exact ⟨by decide, by decide⟩
  · have hlen := lace_length_le (laceCheck_ok ht)
    exact State.sound_of_dropped rfl (dropSubSegs_openRun _)
      (h.segtab.write (by omega) (.inl (Nat.le_refl _))) h.data (h.subseg.mono (Nat.zero_le _)) h.fb h.pos h.err

theorem State.Sound.opGetChecksum (h : s.Sound) (P : Params) : (opGetChecksum P s).Sound := by
  refine h.checked (fun k hk => ?_) fun n _ => ?_
  · cases wholePage_error hk
    exact ⟨by decide, by decide⟩
  · exact h.of_samePage ⟨rfl, rfl, rfl, rfl, rfl, rfl, rfl⟩ h.fb h.pos h.err

theorem State.Sound.opFillChecksum (h : s.Sound) (P : Params) : (opFillChecksum P s).Sound := by
  refine h.checked (fun k hk => ?_) fun n hn => ?_
  · cases wholePage_error hk
    exact ⟨by decide, by decide⟩
  · obtain ⟨-, havail, h27⟩ := wholePage_ok hn
    have hle := h.fb.le
    have hfield : ∀ c : Word32, s.pos.toNat + 22 + (fldBytes P c).length ≤ Config.fbSize := fun c => by
      simp only [State.avail, fldBytes_length] at *
      omega
    exact h.of_samePage ⟨rfl, rfl, rfl, rfl, rfl, rfl, rfl⟩ (h.fb.write (hfield _) (.inl (Nat.le_refl _))) h.pos
      h.err

theorem State.Sound.opGetLength (h : s.Sound) : (opGetLength s).Sound := by
  obtain ⟨b, r, heq⟩ := opGetLength_cases s
  rw [heq]
  exact h.of_samePage ⟨rfl, rfl, rfl, rfl, rfl, rfl, setLenv_openRun _ _⟩ h.fb h.pos h.err

theorem State.Sound.opParse (h : s.Sound) (P : Params) : (opParse P s).Sound := by
  refine h.checked (fun k hk => ?_) fun pg hpg => ?_
  · rcases parsePage_error hk with rfl | rfl | rfl <;> exact ⟨by decide, by decide⟩
  · obtain ⟨-, -, ⟨t, -, hpage⟩, hlen, -⟩ := parsePage_ok hpg
    have hflen := s.flen.isLt
    have hbounds := pageAt_bounds P s s.pos.toNat (s.fbByte (s.pos.toNat + 26)) t
    rw [← hpage] at hbounds
    obtain ⟨htable, hpayload, -⟩ := hbounds
    have hdlen : (loadPage pg s).dlen.toNat = pg.payload.length := by
      change (BitVec.ofNat 17 pg.payload.length).toNat = _
      rw [BitVec.toNat_ofNat, Nat.mod_eq_of_lt (by omega)]
    refine State.sound_of_dropped rfl (dropSubSegs_openRun _)
      (h.segtab.write (by omega) (.inl (Nat.le_refl _))) ?_ (h.subseg.mono (Nat.zero_le _)) h.fb ?_ h.err
    · rw [hdlen]
      exact h.data.write (by omega) (.inr ⟨Nat.zero_le _, by omega⟩)
    · have hpos := h.pos
      change (BitVec.ofNat 32 (s.pos.toNat + pg.length)).toNat ≤ s.flen.toNat
      rw [State.avail] at hlen
      rw [BitVec.toNat_ofNat, Nat.mod_eq_of_lt (by omega)]
      omega

theorem State.Sound.opSerialize (h : s.Sound) : (opSerialize Config.params s).Sound := by
  refine h.checked (fun k hk => ?_) fun pg hpg => ?_
  · rcases serializeCheck_error hk with rfl | rfl <;> exact ⟨by decide, by decide⟩
  · obtain ⟨-, hroom, rfl⟩ := serializeCheck_eq_ok hpg
    have hmagic : Config.params.magic.length = 4 := rfl
    have hsize := fbSize_bounds.2
    have hpos := h.pos
    have hfit : s.flen.toNat + s.page.length ≤ Config.fbSize := by
      rw [State.page_length]
      exact hroom
    have hflen : (emitPage Config.params s.page s).flen.toNat = s.flen.toNat + s.page.length := by
      change (BitVec.ofNat 32 (s.flen.toNat + s.page.length)).toNat = _
      rw [BitVec.toNat_ofNat, Nat.mod_eq_of_lt (by omega)]
    have hpage : Filled (writeEntries s.fb s.flen.toNat (pageBytes Config.params s.page)) Config.fbSize
        (s.flen.toNat + s.page.length) :=
      h.fb.write (by rw [pageBytes_length hmagic]; exact hfit)
        (.inr ⟨Nat.le_refl _, by rw [pageBytes_length hmagic]⟩)
    refine h.of_samePage ⟨rfl, rfl, rfl, rfl, rfl, rfl, rfl⟩ ?_ ?_ h.err
    · rw [hflen, emitPage_fb hmagic]
      refine hpage.write ?_ (.inl (Nat.le_refl _))
      rw [fldBytes_length]
      rw [State.page_length] at hfit
      omega
    · rw [hflen]
      exact Nat.le_add_right_of_le hpos

theorem State.Sound.opFbReset (h : s.Sound) : (opFbReset s).Sound :=
  h.of_samePage ⟨rfl, rfl, rfl, rfl, rfl, rfl, setLenv_openRun _ _⟩ (h.fb.mono (Nat.zero_le _)) (Nat.le_refl _)
    h.err

theorem State.Sound.opFbAppend (h : s.Sound) (w : List Byte) : (opFbAppend Config.params w s).Sound := by
  have hle := h.fb.le
  have hsize := fbSize_bounds.2
  have haccepts : appendAccepts Config.params w s ≤ w.length ∧
      s.flen.toNat + appendAccepts Config.params w s ≤ Config.fbSize := by
    have hdef : appendAccepts Config.params w s = min w.length (Config.fbSize - s.flen.toNat) := rfl
    omega
  have hlen : (w.take (appendAccepts Config.params w s)).length = appendAccepts Config.params w s := by
    rw [List.length_take]
    omega
  have hflen : (Machine.opFbAppend Config.params w s).flen.toNat =
      s.flen.toNat + appendAccepts Config.params w s := by
    change (BitVec.ofNat 32 (s.flen.toNat + appendAccepts Config.params w s)).toNat = _
    rw [BitVec.toNat_ofNat, Nat.mod_eq_of_lt (by omega)]
  refine h.of_samePage ⟨rfl, rfl, rfl, rfl, rfl, rfl, rfl⟩ ?_ ?_ h.err
  · rw [hflen]
    exact h.fb.write (by omega) (.inr ⟨Nat.le_refl _, by omega⟩)
  · rw [hflen]
    exact Nat.le_add_right_of_le h.pos

theorem State.Sound.opFbCompact (h : s.Sound) : (opFbCompact s).Sound := by
  have hle := h.fb.le
  have havail : s.avail s.pos.toNat ≤ s.flen.toNat := Nat.sub_le ..
  have hflen : (Machine.opFbCompact s).flen.toNat = s.avail s.pos.toNat := by
    change (BitVec.ofNat 32 (s.avail s.pos.toNat)).toNat = _
    have := s.flen.isLt
    rw [BitVec.toNat_ofNat, Nat.mod_eq_of_lt (by omega)]
  refine h.of_samePage ⟨rfl, rfl, rfl, rfl, rfl, rfl, setLenv_openRun _ _⟩ ?_ (Nat.zero_le _) h.err
  rw [hflen]
  refine h.fb.write ?_ (.inr ⟨Nat.zero_le _, ?_⟩) <;> rw [State.fbBytes_length] <;> omega

theorem State.Sound.clearError (h : s.Sound) : (clearError s).Sound :=
  h.of_samePage ⟨rfl, rfl, rfl, rfl, rfl, rfl, rfl⟩ h.fb h.pos blockCode_zero

theorem State.Sound.effect (h : s.Sound) (i : Instr) : (effect Config.params i s).Sound := by
  cases i with
  | new => exact h.opNew
  | clear => exact h.opClear
  | write w => exact h.opWrite w
  | getSegments => exact h.opGetSegments
  | lace => exact h.opLace
  | getChecksum => exact h.opGetChecksum _
  | fillChecksum => exact h.opFillChecksum _
  | getLength => exact h.opGetLength
  | parse => exact h.opParse _
  | serialize => exact h.opSerialize
  | fbReset => exact h.opFbReset
  | fbAppend w => exact h.opFbAppend w
  | fbCompact => exact h.opFbCompact
  | clrErr => exact h.clearError
  | reset => exact h.opReset

theorem State.Sound.exec (h : s.Sound) {i : Instr} {t : State} (hexec : exec i s = .next t) : t.Sound := by
  rcases exec_cases i s with heffect | ⟨-, hsame⟩
  · cases heffect.symm.trans hexec
    exact h.effect i
  · cases hsame.symm.trans hexec
    exact h

/-! ### Every access of the host keeps the invariant -/

theorem State.Sound.writeReg (h : s.Sound) (r : Reg) (v : Word64) : (writeReg r v s).Sound := by
  have same : ∀ t : State, s.SamePage t → t.fb = s.fb → t.flen = s.flen → t.pos = s.pos → t.err = s.err →
      t.Sound := fun t hp hfb hflen hpos herr =>
    h.of_samePage hp (by rw [hfb, hflen]; exact h.fb) (by rw [hpos, hflen]; exact h.pos) (herr ▸ h.err)
  cases r with
  | cmd | res | err | status | version | dlen | flen | nsub => exact h
  | arg | granule | streamId | packetIndex | checksum =>
    exact same _ ⟨rfl, rfl, rfl, rfl, rfl, rfl, rfl⟩ rfl rfl rfl rfl
  | type =>
    cases htype : typeOfBits (v.setWidth 2) with
    | none =>
      rw [writeReg_type_of_none htype]
      exact h
    | some t =>
      rw [writeReg_type_of_some htype]
      exact same _ ⟨rfl, rfl, rfl, rfl, rfl, rfl, rfl⟩ rfl rfl rfl rfl
  | nseg =>
    exact State.sound_of_dropped rfl (dropSubSegs_openRun _) h.segtab h.data (h.subseg.mono (Nat.zero_le _)) h.fb
      h.pos h.err
  | pos =>
    by_cases hle : (v.setWidth 32).toNat ≤ s.flen.toNat
    · rw [writeReg_pos_of_le hle]
      exact h.of_samePage ⟨rfl, rfl, rfl, rfl, rfl, rfl, rfl⟩ h.fb hle h.err
    · rw [writeReg_pos_of_not_le hle]
      exact h

theorem State.Sound.writeSegtab (h : s.Sound) {i : Nat} (hi : i < 255) (v : Byte) : (writeSegtab i v s).Sound :=
  State.sound_of_dropped rfl (dropSubSegs_openRun _) (h.segtab.write (vs := [v]) hi (.inl (Nat.le_refl _)))
    h.data (h.subseg.mono (Nat.zero_le _)) h.fb h.pos h.err

theorem State.Sound.served (h : s.Sound) {t : State} (ht : Served s t) : t.Sound := by
  cases ht with
  | operation i hexec => exact h.exec hexec
  | illegal => exact h.raise ⟨by decide, by decide⟩
  | ignored => exact h
  | register r v => exact h.writeReg r v
  | cell hi v => exact h.writeSegtab hi v
  | answered d n => exact h.of_samePage ⟨rfl, rfl, rfl, rfl, rfl, rfl, rfl⟩ h.fb h.pos h.err

end

end Sys2Proof.Machine
end

section
/-!
The statements of spec/10_state.md: reset and commands, the accesses of the host, the invariant, and the state that each
operation writes.
-/

namespace Sys2Proof.Claims

open Sys2Proof.Machine

/-! ### The two tables of the statements (rule R20) -/

theorem regOfIndex_of_mem_indexTable :
    ∀ p ∈ indexTable, regOfIndex p.1 = some p.2 ∧ p.2 ≠ .cmd ∧ p.2 ≠ .granule := by
  decide

/-- STATUS read as a number: LENV at bit 0 and OPEN at bit 1 (rule R25). -/
theorem setWidth_status (s : State) :
    s.status.setWidth 64 = BitVec.ofNat 64 ((if s.lenv then 1 else 0) + if s.openRun then 2 else 0) := by
  have key : ∀ x : BitVec 2, x.setWidth 64 =
      BitVec.ofNat 64 ((if x.getLsbD 0 then 1 else 0) + if x.getLsbD 1 then 2 else 0) := by
    decide
  exact key s.status

theorem regValue_of_mem_registerAnswers (s : State) :
    ∀ p ∈ registerAnswers s, regValue p.1 s = some (BitVec.ofNat 64 p.2) := by
  have asNumber : ∀ {n : Nat} (x : BitVec n), some (x.setWidth 64) = some (BitVec.ofNat 64 x.toNat) := fun x =>
    congrArg some (BitVec.ofNat_toNat 64 x).symm
  simp only [registerAnswers, List.forall_mem_cons]
  refine ⟨asNumber _, asNumber _, asNumber _, congrArg some (setWidth_status s), rfl, ?_, ?_, asNumber _,
    asNumber _, asNumber _, asNumber _, asNumber _, asNumber _, asNumber _, asNumber _,
    fun _ h => absurd h List.not_mem_nil⟩
  · unfold regValue
    cases s.pageType <;> rfl
  · rw [BitVec.ofNat_toNat, BitVec.setWidth_eq]
    rfl

/-! ### Reset, commands and VERSION (rules R12, R34, R48) -/

/-- Settles O36: RESET and power-on give every register the same value, which is 0. -/
theorem resetValuesAreZero : Obligations.ResetValuesAreZero :=
  ⟨fun _ hr => regValue_reset hr, validCells_reset, fun s =>
    ⟨opReset s, rfl, fun r hr => (regValue_opReset r s).trans (regValue_reset hr), fun sp =>
      validCells_opReset sp s⟩⟩

/-- Settles O37: a command through the register file is the command of its low 8 bits. -/
theorem stepRunsTheIssuedOperation : Obligations.StepRunsTheIssuedOperation := by
  refine ⟨fun s a rest h => step_of_cons h, fun s c w i hdec => issue_of_ok hdec s, fun s v => ?_, fun s v => ?_,
    fun s c w rest i h hdec => ?_, fun s h => step_of_nil h⟩
  · rw [BitVec.ofNat_toNat]
    rfl
  · rw [BitVec.ofNat_toNat, ← BitVec.setWidth_setWidth_of_le v (by decide : 8 ≤ 64)]
    exact writeIndexed_of_reg (i := 0) (r := .cmd) rfl (by decide) exec v s
  · rw [step_of_cons h]
    exact issue_of_ok hdec _

/-- Settles O48: VERSION has no storage, so no write reaches it. -/
theorem versionIsHardwiredToZero : Obligations.VersionIsHardwiredToZero := fun s v =>
  ⟨rfl, writeNamed_of_ne_cmd (r := .version) (by decide) exec v s⟩

/-! ### The accesses of the host (rules R20, R27, R35, R40, R45, R52) -/

/-- Settles O40: the access is served or refused by its own rule. -/
theorem everyMeaningfulAccessIsServed : Obligations.EveryMeaningfulAccessIsServed := by
  refine ⟨exec_total, fun a s => ?_⟩
  cases a with
  | command code w => exact ⟨fun _ => issue_total code w s, fun h => absurd trivial h⟩
  | writeReg r v => exact ⟨fun _ => writeNamed_total r v s, fun h => absurd trivial h⟩
  | readReg r => exact ⟨fun _ => ⟨_, rfl⟩, fun h => absurd trivial h⟩
  | writeIndex i v =>
    exact ⟨fun h => writeIndexed_total h v s,
      fun h => ⟨_, writeIndexed_of_none ((regOfIndex_eq_none_iff i).mpr (Nat.not_le.mp h)) exec v s⟩⟩
  | readIndex i =>
    exact ⟨fun h => readIndexed_total h s,
      fun h => ⟨_, readIndexed_of_none ((regOfIndex_eq_none_iff i).mpr (Nat.not_le.mp h)) s⟩⟩
  | writeCell sp i v =>
    rcases writeCell_cases Config.params sp i v s with ⟨hsp, hi, hnext⟩ | ⟨hbad, r, hrefused⟩
    · exact ⟨fun _ => ⟨_, hnext⟩, fun h => absurd ⟨hsp, hi⟩ h⟩
    · exact ⟨fun h => absurd h hbad, fun _ => ⟨r, hrefused⟩⟩
  | readCell sp i => exact ⟨fun h => readCell_total h s, fun h => ⟨_, readCell_refused h s⟩⟩

/-- Settles O45: each ignored write by the rule of its register; a write of NSEG or SEGTAB drops the
sub-segments. -/
theorem ignoredHostWritesAreIgnored : Obligations.IgnoredHostWritesAreIgnored := by
  intro s v
  refine ⟨?_, fun h => ?_, fun h => ?_, ?_, fun r => ⟨_, rfl⟩, fun sp i h => readCell_total h s, fun i b hi => ?_⟩
  · simp only [List.forall_mem_cons]
    exact ⟨rfl, rfl, rfl, rfl, rfl, rfl, rfl, fun _ h => absurd h List.not_mem_nil⟩
  · have hbits : (v.setWidth 2).toNat = 3 := (BitVec.toNat_setWidth 2 v).trans h
    exact congrArg Host.Outcome.next (writeReg_type_of_none (typeOfBits_illegal hbits) s)
  · have hout : ¬ (v.setWidth 32).toNat ≤ s.flen.toNat := by
      rw [BitVec.toNat_setWidth]
      exact Nat.not_le.mpr h
    exact congrArg Host.Outcome.next (writeReg_pos_of_not_le hout)
  · exact ⟨writeReg .nseg v s, rfl, BitVec.toNat_setWidth 8 v, rfl, dropSubSegs_openRun _, dropSubSegs_lenv _⟩
  · refine ⟨writeSegtab i b s, writeCell_segtab _ hi b s, rfl, dropSubSegs_openRun _, dropSubSegs_lenv _, ?_,
      fun a ha => ?_⟩
    · change readByte .segtab (writeEntries s.segtab i [b]) i = b
      rw [readByte_writeEntries, if_pos ⟨Nat.le_refl i, Nat.lt_succ_self i⟩, Nat.sub_self]
      rfl
    · change readByte .segtab (writeEntries s.segtab i [b]) a = readByte .segtab s.segtab a
      rw [readByte_writeEntries, if_neg (by rw [List.length_singleton]; omega)]

/-- Settles O46: by index through the table; by name each register by its own rule. -/
theorem hostWritesAreReadBack : Obligations.HostWritesAreReadBack := by
  intro s v
  have readBack : ∀ n, some ((v.setWidth n).setWidth 64) = some (BitVec.ofNat 64 (v.toNat % 2 ^ n)) := fun n =>
    congrArg some (setWidth_setWidth_eq_ofNat_mod n v)
  refine ⟨fun p hp x => ?_, fun x => ⟨_, writeIndexed_of_granule (i := 7) rfl exec x s, rfl, toNat_granuleSlot_low x _⟩,
    fun x => ⟨_, writeIndexed_of_granule (i := 8) rfl exec x s, rfl, toNat_granuleSlot_high x _⟩,
    ⟨_, rfl, readBack 8⟩,
    ⟨_, rfl, rfl, readBack 32⟩, ⟨_, rfl, rfl, rfl⟩, ⟨_, rfl, rfl, readBack 32⟩, ⟨_, rfl, rfl, readBack 32⟩,
    ⟨_, rfl, rfl, readBack 32⟩, fun h => ?_, fun h => ?_⟩
  · obtain ⟨hreg, -, hgranule⟩ := regOfIndex_of_mem_indexTable p hp
    rw [BitVec.ofNat_toNat]
    exact writeIndexed_of_reg hreg hgranule exec x s
  · have hbits : (v.setWidth 2).toNat ≠ 3 := by rwa [BitVec.toNat_setWidth]
    obtain ⟨t, ht, hcode⟩ := typeOfBits_legal hbits
    refine ⟨_, congrArg Host.Outcome.next (writeReg_type_of_some ht s), rfl, ?_⟩
    rw [regValue, hcode]
    exact readBack 2
  · have hin : (v.setWidth 32).toNat ≤ s.flen.toNat := by rwa [BitVec.toNat_setWidth]
    exact ⟨_, congrArg Host.Outcome.next (writeReg_pos_of_le hin), rfl, readBack 32⟩

/-- Settles O47: a read is an answer, and the answer is the register's value or the cell's content. -/
theorem hostReadsHaveNoSideEffect : Obligations.HostReadsHaveNoSideEffect := by
  refine ⟨fun s p hp => ?_, fun s p hp => ?_, fun s => ⟨?_, ?_, ?_⟩, fun r s t h => ?_, fun i s t h => ?_,
    fun sp i s t h => readCell_frame h, fun i s => ⟨fun h hv => ?_, fun h hv => ?_, fun h hv => ?_, fun hv => ?_⟩⟩
  · exact congrArg Host.Outcome.next (readReg_of_regValue (regValue_of_mem_registerAnswers s p hp))
  · obtain ⟨hreg, -, hgranule⟩ := regOfIndex_of_mem_indexTable p hp
    exact readIndexed_of_reg hreg hgranule s
  · exact readIndexed_of_reg (i := 0) (r := .cmd) rfl (by decide) s
  · rw [← granuleHalf_low]
    exact readIndexed_of_granule (i := 7) rfl s
  · rw [← granuleHalf_high]
    exact readIndexed_of_granule (i := 8) rfl s
  · cases h
    refine ⟨readReg_frame r s, fun v hv => ?_⟩
    rw [readReg_of_regValue hv]
    rfl
  · exact readIndexed_frame h
  · exact ⟨_, perform_readCell_valid (sp := .segtab) h hv, rfl⟩
  · exact ⟨_, perform_readCell_valid (sp := .data) h hv, rfl⟩
  · exact ⟨_, perform_readCell_valid (sp := .fb) h hv, rfl⟩
  · have hin : i < 255 := by
      have := s.nsub.isLt
      omega
    exact ⟨_, perform_readCell_valid (sp := .subseg) hin hv, rfl⟩

/-! ### The invariant (rules R27, R32) -/

/-- Settles O41: the memories are empty and the registers 0. -/
theorem invariantHoldsAtReset : Obligations.InvariantHoldsAtReset := by
  have empty : ∀ (α : Type) (size : Nat), Filled ([] : List (Nat × α)) size 0 := fun α size =>
    ⟨List.Pairwise.nil, fun _ hc => absurd hc List.not_mem_nil, Nat.zero_le _,
      fun _ ha => absurd ha (Nat.not_lt_zero _)⟩
  exact (State.inv_iff_sound _).mpr (State.sound_of_dropped rfl rfl (empty ..) (empty ..) (empty ..) (empty ..)
    (Nat.le_refl _) blockCode_zero)

/-- Settles O42: a step serves one access, and whatever serving it can do keeps each memory's part of the
invariant. -/
theorem stepKeepsInvariant : Obligations.StepKeepsInvariant := by
  intro s t hinv hstep
  rw [State.inv_iff_sound] at hinv ⊢
  cases haccesses : s.accesses with
  | nil =>
    cases (step_of_nil haccesses).symm.trans hstep
    exact hinv
  | cons a rest =>
    have hrest : State.Sound { s with accesses := rest } :=
      hinv.of_samePage ⟨rfl, rfl, rfl, rfl, rfl, rfl, rfl⟩ hinv.fb hinv.pos hinv.err
    exact hrest.served (served_of_perform ((step_of_cons haccesses).symm.trans hstep))

/-! ### The state each operation writes (rules R20, R23, R25, R27) -/

/-- Settles O43: an operation that is not gated off answers its effect; a checked one raises, which changes ERR only,
or commits. Each effect then shows which fields it writes. -/
theorem operationsWriteOnlyTheirState : Obligations.OperationsWriteOnlyTheirState := by
  intro i s t hexec
  rcases exec_cases i s with heffect | ⟨-, hsame⟩
  · cases heffect.symm.trans hexec
    cases i with
    | new => simp [effect, opNew, State.lenv, State.openRun]
    | clear => simp [effect, opClear, State.lenv, State.openRun]
    | write w => simp [effect, opWrite, State.lenv, State.openRun]
    | getSegments =>
      rcases checked_cases (segmentsCheck s) listSegments s with ⟨k, -, h⟩ | ⟨l, -, h⟩
      · simp [effect, opGetSegments, h]
      · simp [effect, opGetSegments, h, listSegments, State.lenv, State.openRun]
    | lace =>
      rcases checked_cases (laceCheck s) loadTable s with ⟨k, -, h⟩ | ⟨t, -, h⟩
      · simp [effect, opLace, h]
      · simp [effect, opLace, h, loadTable, State.lenv, State.openRun]
    | getChecksum =>
      rcases checked_cases (wholePage s) (reportChecksum Config.params) s with ⟨k, -, h⟩ | ⟨n, -, h⟩
      · simp [effect, opGetChecksum, h]
      · simp [effect, opGetChecksum, h, reportChecksum, State.lenv, State.openRun]
    | fillChecksum =>
      rcases checked_cases (wholePage s) (fillChecksum Config.params) s with ⟨k, -, h⟩ | ⟨n, -, h⟩
      · simp [effect, opFillChecksum, h]
      · simp [effect, opFillChecksum, h, fillChecksum, State.lenv, State.openRun]
    | getLength =>
      obtain ⟨b, r, h⟩ := opGetLength_cases s
      simp [effect, h, State.lenv, State.openRun]
    | parse =>
      rcases checked_cases (parsePage Config.params s) loadPage s with ⟨k, -, h⟩ | ⟨pg, -, h⟩
      · simp [effect, opParse, h]
      · simp [effect, opParse, h, loadPage, State.lenv, State.openRun]
    | serialize =>
      rcases checked_cases (serializeCheck Config.params s) (emitPage Config.params) s with
        ⟨k, -, h⟩ | ⟨pg, -, h⟩
      · simp [effect, opSerialize, h]
      · simp [effect, opSerialize, h, emitPage, State.lenv, State.openRun]
    | fbReset => simp [effect, opFbReset, State.lenv, State.openRun]
    | fbAppend w => simp [effect, opFbAppend, State.lenv, State.openRun]
    | fbCompact => simp [effect, opFbCompact, State.lenv, State.openRun]
    | clrErr => simp [effect]
    | reset => simp [effect, opReset]
  · cases hsame.symm.trans hexec
    simp

end Sys2Proof.Claims
end

section
/-!
The command encoding (rules R65 to R67): what a code selects, and that the decoder and the encoder invert each
other.
-/

namespace Sys2Proof.Machine

/-! ### What a code selects (rules R66, R67) -/

theorem opcode_bounds (i : Instr) : 1 ≤ (opcode i).toNat ∧ (opcode i).toNat ≤ 15 := by
  cases i <;> simp [opcode]

/-- An operation that a code selects has that code, and the given byte string where it takes one. -/
theorem operationOf_eq_some {code : Byte} {w : List Byte} {i : Instr} (h : operationOf code w = some i) :
    code = opcode i ∧ operandBytes i = if takesOperand code then w else [] := by
  have code_eq : ∀ {k : Nat}, code.toNat = k → code = BitVec.ofNat 8 k := fun hk => by
    rw [← hk, BitVec.ofNat_toNat, BitVec.setWidth_eq]
  unfold operationOf at h
  split at h <;> cases h
  all_goals
    next hcode =>
    cases code_eq hcode
    exact ⟨rfl, rfl⟩

/-- The codes that select no operation are those that rule R67 calls illegal. -/
theorem operationOf_eq_none_iff (code : Byte) (w : List Byte) :
    operationOf code w = none ↔ code = 0 ∨ 16 ≤ code.toNat := by
  constructor
  · intro h
    by_contra hlegal
    obtain ⟨hzero, hlarge⟩ := not_or.mp hlegal
    have hpos : code.toNat ≠ 0 := fun h0 => hzero (BitVec.eq_of_toNat_eq h0)
    unfold operationOf at h
    split at h
    case h_16 =>
      simp only [imp_false] at *
      omega
    all_goals cases h
  · intro hillegal
    by_contra hsome
    obtain ⟨i, hi⟩ := Option.ne_none_iff_exists'.mp hsome
    have hbounds := opcode_bounds i
    rw [← (operationOf_eq_some hi).1] at hbounds
    rcases hillegal with rfl | hlarge
    · exact absurd hbounds.1 (by decide)
    · omega

/-! ### The decoder and the encoder (rule R65) -/

theorem decode_encode (i : Instr) : decode (encode i) = .ok i := by
  cases i <;> rfl

/-- What decodes is the code of the operation, then a byte string only where the operation takes one. -/
theorem encode_of_decode {bs : List Byte} {i : Instr} (h : decode bs = .ok i) : bs = encode i := by
  unfold decode at h
  split at h
  · cases h
  · next code w =>
    split at h
    · cases h
    · next hop =>
      split at h <;> cases h
      next htaken =>
      obtain ⟨hcode, hoperand⟩ := operationOf_eq_some hop
      rw [encode, hoperand, ← hcode]
      by_cases htakes : takesOperand code
      · rw [if_pos htakes]
      · rw [if_neg htakes]
        rw [Bool.eq_false_of_not_eq_true htakes] at htaken
        rw [List.isEmpty_iff.mp htaken]

/-- A transaction of an illegal code, whatever follows the code, is rejected. -/
theorem decode_illegal {code : Byte} (h : code = 0 ∨ 16 ≤ code.toNat) (w : List Byte) :
    decode (code :: w) = .error (.illegalCode code) := by
  rw [decode, (operationOf_eq_none_iff code w).mpr h]

/-- The host's transaction holds a byte string only where it is taken, so that every legal code is decoded. -/
theorem decode_transaction_legal {code : Byte} (h : ¬ (code = 0 ∨ 16 ≤ code.toNat)) (w : List Byte) :
    ∃ i, decode (transaction code w) = .ok i := by
  rw [← operationOf_eq_none_iff code (if takesOperand code then w else [])] at h
  obtain ⟨i, hi⟩ := Option.ne_none_iff_exists'.mp h
  refine ⟨i, ?_⟩
  rw [transaction, decode, hi]
  cases takesOperand code <;> rfl

theorem decode_transaction_error_iff (code : Byte) (w : List Byte) :
    (∃ e, decode (transaction code w) = .error e) ↔ code = 0 ∨ 16 ≤ code.toNat := by
  refine ⟨fun ⟨e, he⟩ => ?_, fun h => ⟨_, decode_illegal h _⟩⟩
  by_contra hlegal
  obtain ⟨i, hi⟩ := decode_transaction_legal hlegal w
  rw [hi] at he
  cases he

end Sys2Proof.Machine

namespace Sys2Proof.Claims

open Sys2Proof.Machine

/-! ### The statements on the encoding (rules R63, R65 to R67) -/

/-- Settles O39: the decoder and the encoder invert each other, and only illegal codes are rejected. -/
theorem decodeAndEncodeAgree : Obligations.DecodeAndEncodeAgree :=
  ⟨fun _ i => ⟨encode_of_decode, fun h => h ▸ decode_encode i⟩, decode_transaction_error_iff⟩

/-- Settles O38: each row of the table is the encoding of its operation. -/
theorem tableCodesDecode : Obligations.TableCodesDecode := by
  have table_eq : ∀ p ∈ codes, p.1 = encode p.2 := by decide
  intro p hp
  rw [table_eq p hp, decode_encode]

/-- Settles O32: an illegal code does not decode, and what is not decoded raises IllegalCommand behind the gate. -/
theorem illegalCodeRaisesIllegalCommand : Obligations.IllegalCodeRaisesIllegalCommand := by
  intro c w s hillegal
  rw [show perform (.command c w) s = execIllegal s from issue_of_error (decode_illegal hillegal _) s]
  by_cases herr : s.err = 0
  · rw [execIllegal, gated_of_clear herr, if_pos herr]
    rfl
  · rw [execIllegal, gated_of_error herr, if_neg herr]

theorem typeCode_params (ty : PageType) : typeCode Config.params ty = flagByte ty := by
  cases ty <;> rfl

/-- Settles O19: `type_decode` inverts `TYPE_CODE`, whose three bytes are written out. -/
theorem typeFlagsByteIsOneHot : Obligations.TypeFlagsByteIsOneHot := by
  refine ⟨typeCode_params, fun b ty => ?_⟩
  rw [← typeCode_params]
  exact ⟨fun h => (typeCode_of_typeDecode h).symm, fun h => h ▸ typeDecode_typeCode Config.params_valid ty⟩

end Sys2Proof.Claims
end

section
/-!
The CRC notices a changed byte (rules R100 to R102, R106): each of its rounds is injective where the polynomial is
odd, so strings of one length that differ in one byte only have different checksums.
-/

namespace Sys2Proof.Machine

/-! ### The rounds are injective (rules R100, R101) -/

/-- A round of an odd polynomial keeps the bit it shifts out: it comes back as bit 0. -/
theorem crcBit_getLsbD_zero {poly : Word32} (hodd : poly.getLsbD 0 = true) (c : Word32) :
    (crcBit poly c).getLsbD 0 = c.msb := by
  unfold crcBit
  split
  · next hmsb => simp [hodd, hmsb]
  · next hmsb => simp [hmsb]

theorem crcBit_injective {poly : Word32} (hodd : poly.getLsbD 0 = true) : Function.Injective (crcBit poly) := by
  intro c d h
  have hmsb : c.msb = d.msb := by rw [← crcBit_getLsbD_zero hodd c, h, crcBit_getLsbD_zero hodd]
  have hshift : c <<< 1 = d <<< 1 := by
    unfold crcBit at h
    rw [hmsb] at h
    split at h
    · exact (BitVec.xor_left_inj poly).mp h
    · exact h
  apply BitVec.eq_of_getElem_eq
  intro j hj
  by_cases htop : j = 31
  · subst htop
    simpa [BitVec.msb_eq_getLsbD_last] using hmsb
  · have hbit := congrArg (·.getLsbD (j + 1)) hshift
    have : j + 1 < 32 := by omega
    simpa [this] using hbit

/-- For a given byte, the register after a step tells the register before it. -/
theorem crcStep_injective {poly : Word32} (hodd : poly.getLsbD 0 = true) (b : Byte) :
    Function.Injective (crcStep poly · b) := fun _ _ h =>
  (BitVec.xor_left_inj _).mp ((crcBit_injective hodd).iterate 8 h)

/-- For a given register, the register after a step tells the byte that entered. -/
theorem crcStep_byte_injective {poly : Word32} (hodd : poly.getLsbD 0 = true) (c : Word32) :
    Function.Injective (crcStep poly c) := by
  intro a b h
  have hentered := (BitVec.xor_right_inj _).mp ((crcBit_injective hodd).iterate 8 h)
  bv_omega

theorem reverse_injective {n : Nat} : Function.Injective (BitVec.reverse : BitVec n → BitVec n) := fun a b h =>
  BitVec.eq_of_getMsbD_eq fun i _ => by rw [← BitVec.getLsbD_reverse, h, BitVec.getLsbD_reverse]

theorem crcByteIn_injective (P : Params) : Function.Injective (crcByteIn P) := by
  intro a b h
  unfold crcByteIn at h
  split at h
  · exact reverse_injective h
  · exact h

theorem crcWordOut_injective (P : Params) : Function.Injective (crcWordOut P) := by
  intro c d h
  unfold crcWordOut at h
  split at h
  · exact reverse_injective h
  · exact h

/-! ### Strings that differ in one byte (rules R101, R106) -/

section
variable {P : Params} (hodd : P.crcPoly.getLsbD 0 = true)
include hodd

theorem foldl_crcStep_injective (v : List Byte) :
    Function.Injective fun c => v.foldl (fun c b => crcStep P.crcPoly c (crcByteIn P b)) c := by
  induction v with
  | nil => exact Function.injective_id
  | cons b v ih => exact ih.comp (crcStep_injective hodd (crcByteIn P b))

/-- Between a fixed beginning and a fixed end, the checksum tells the byte. -/
theorem crc32_byte_injective (u v : List Byte) : Function.Injective fun b => crc32 P (u ++ b :: v) := by
  intro a b h
  have hfold := crcWordOut_injective P ((BitVec.xor_left_inj _).mp h)
  rw [List.foldl_append, List.foldl_append] at hfold
  exact crcByteIn_injective P (crcStep_byte_injective hodd _ (foldl_crcStep_injective hodd v hfold))

theorem crc32_set_injective {l : List Byte} {k : Nat} (hk : k < l.length) :
    Function.Injective fun b => crc32 P (l.set k b) := by
  intro a b h
  simp only [List.set_eq_take_append_cons_drop, if_pos hk] at h
  exact crc32_byte_injective hodd _ _ h

end

/-! ### A byte replaced in a page (rule R102) -/

theorem zeroChecksum_set_outside {l : List Byte} {k : Nat} (hlen : 26 ≤ l.length) (hk : k < 22 ∨ 26 ≤ k)
    (b : Byte) : zeroChecksum (l.set k b) = (zeroChecksum l).set k b := by
  have htake : (l.take 22).length = 22 := List.length_take_of_le (by omega)
  unfold zeroChecksum
  rcases hk with hk | hk
  · rw [List.take_set, List.drop_set_of_lt (by omega), List.set_append_left _ _ (by simp [htake]; omega),
      List.set_append_left _ _ (by omega)]
  · rw [List.take_set_of_le (by omega), List.drop_set, if_neg (by omega),
      List.set_append_right _ _ (by simp [htake]; omega)]
    simp [htake]

theorem zeroChecksum_set_field {l : List Byte} {k : Nat} (hlo : 22 ≤ k) (hhi : k < 26) (b : Byte) :
    zeroChecksum (l.set k b) = zeroChecksum l := by
  rw [zeroChecksum, List.take_set_of_le hlo, List.drop_set_of_lt hhi, zeroChecksum]

end Sys2Proof.Machine
end

section
/-!
The number a field stands for (rules R36, R42, R62): a field's value is that number, and it tells the bytes.
-/

namespace Sys2Proof.Claims

open Sys2Proof.Machine

theorem littleEndian_lt (bs : List Byte) : littleEndian bs < 2 ^ (8 * bs.length) := by
  induction bs with
  | nil => exact Nat.one_pos
  | cons b bs ih =>
    have hb := b.isLt
    calc littleEndian (b :: bs) = b.toNat + 256 * littleEndian bs := rfl
      _ < 256 * 2 ^ (8 * bs.length) := by omega
      _ = 2 ^ (8 * (b :: bs).length) := by rw [List.length_cons, Nat.mul_succ, Nat.pow_add]; omega

theorem littleEndian_inj {x y : List Byte} (hlen : x.length = y.length) (h : littleEndian x = littleEndian y) :
    x = y := by
  induction x generalizing y with
  | nil => exact (List.eq_nil_of_length_eq_zero hlen.symm).symm
  | cons a x ih =>
    cases y with
    | nil => cases hlen
    | cons b y =>
      have hnum : a.toNat + 256 * littleEndian x = b.toNat + 256 * littleEndian y := h
      have ha := a.isLt
      have hb := b.isLt
      rw [BitVec.eq_of_toNat_eq (x := a) (y := b) (by omega), ih (Nat.succ.inj hlen) (by omega)]

/-- `le_n` of a string that fits in `n` bits is the number the string stands for (rule R36). -/
theorem toNat_leValue {n : Nat} {bs : List Byte} (hfits : 8 * bs.length ≤ n) :
    (leValue n bs).toNat = littleEndian bs := by
  induction bs with
  | nil => simp [leValue, littleEndian]
  | cons b bs ih =>
    rw [List.length_cons] at hfits
    have hlow : b.toNat < 2 ^ n := Nat.lt_of_lt_of_le b.isLt (Nat.pow_le_pow_right (by decide) (by omega))
    have hhigh : littleEndian bs <<< 8 < 2 ^ n := by
      have hnum := littleEndian_lt bs
      calc littleEndian bs <<< 8 = littleEndian bs * 2 ^ 8 := Nat.shiftLeft_eq ..
        _ < 2 ^ (8 * bs.length) * 2 ^ 8 := by omega
        _ = 2 ^ (8 * (bs.length + 1)) := by rw [← Nat.pow_add, Nat.mul_succ]
        _ ≤ 2 ^ n := Nat.pow_le_pow_right (by decide) hfits
    calc (leValue n (b :: bs)).toNat
        = b.toNat ||| littleEndian bs <<< 8 := by
          rw [leValue, BitVec.toNat_or, BitVec.toNat_setWidth, BitVec.toNat_shiftLeft, ih (by omega),
            Nat.mod_eq_of_lt hlow, Nat.mod_eq_of_lt hhigh]
      _ = littleEndian bs <<< 8 + b.toNat := by rw [Nat.or_comm, Nat.shiftLeft_add_eq_or_of_lt b.isLt]
      _ = littleEndian (b :: bs) := by
        rw [Nat.shiftLeft_eq, Nat.mul_comm, Nat.add_comm]
        rfl

/-- A field's value is the number it stands for, in either byte order (rules R36, R42). -/
theorem toNat_fld (P : Params) {n : Nat} {bs : List Byte} (hfits : 8 * bs.length ≤ n) :
    (fld P n bs).toNat = fieldValue P bs := by
  unfold fld fieldValue
  cases P.byteOrder with
  | little => exact toNat_leValue hfits
  | big => exact toNat_leValue (by rwa [List.length_reverse])

theorem fld_inj {P : Params} {n : Nat} {x y : List Byte} (hlen : x.length = y.length)
    (hfits : 8 * x.length ≤ n) (h : fld P n x = fld P n y) : x = y := by
  have hnum : fieldValue P x = fieldValue P y := by
    rw [← toNat_fld P hfits, h, toNat_fld P (hlen ▸ hfits)]
  unfold fieldValue at hnum
  cases hP : P.byteOrder with
  | little => exact littleEndian_inj hlen (by rwa [hP] at hnum)
  | big =>
    rw [hP] at hnum
    exact List.reverse_inj.mp (littleEndian_inj (by simpa using hlen) hnum)

end Sys2Proof.Claims
end

section
/-!
What PARSE answers, check by check (rules R68, R112), and PARSE of a page with one bit flipped (rule R106).
-/

namespace Sys2Proof.Machine

/-! ### The checks of PARSE, one answer each (rule R112) -/

theorem pageAt_length (P : Params) (s : State) (p nseg : Nat) (t : PageType) :
    (pageAt P s p nseg t).length = 27 + nseg + sumTable (s.fbBytes (p + 27) nseg) := by
  simp [Page.length, pageAt]

/-- A header in the buffer that fails one of the checks 2 to 4 is malformed. -/
theorem parsePage_malformed {P : Params} {s : State} (hroom : 27 ≤ s.avail s.pos.toNat)
    (hbad : s.fbBytes s.pos.toNat 4 ≠ P.magic ∨ s.fbByte (s.pos.toNat + 4) ≠ 0 ∨
      typeDecode P (s.fbByte (s.pos.toNat + 5)) = none) :
    parsePage P s = .error .malformedHeader := by
  simp only [parsePage]
  rw [if_neg (Nat.not_lt.mpr hroom)]
  by_cases hmagic : s.fbBytes s.pos.toNat 4 = P.magic
  · by_cases hversion : s.fbByte (s.pos.toNat + 4) = 0
    · rw [if_neg (not_not_intro hmagic), if_neg (not_not_intro hversion),
        (hbad.resolve_left (not_not_intro hmagic)).resolve_left (not_not_intro hversion)]
    · rw [if_neg (not_not_intro hmagic), if_pos hversion]
  · rw [if_pos hmagic]

/-- A page wholly in the buffer that passes the checks of its header is judged by its checksum alone. -/
theorem parsePage_of_whole {P : Params} {s : State} {t : PageType} {pg : Page}
    (hmagic : s.fbBytes s.pos.toNat 4 = P.magic) (hversion : s.fbByte (s.pos.toNat + 4) = 0)
    (htype : typeDecode P (s.fbByte (s.pos.toNat + 5)) = some t)
    (hpage : pg = pageAt P s s.pos.toNat (s.fbByte (s.pos.toNat + 26)).toNat t)
    (hroom : pg.length ≤ s.avail s.pos.toNat) :
    parsePage P s =
      if pageCrc P s.fb s.pos.toNat pg.length ≠ pg.checksum then .error .checksumMismatch else .ok pg := by
  have hlength : pg.length = 27 + (s.fbByte (s.pos.toNat + 26)).toNat + sumTable pg.table := by
    rw [hpage, pageAt_length]
    rfl
  simp only [parsePage, htype, ← hpage]
  rw [← hlength, if_neg (by omega), if_neg (not_not_intro hmagic), if_neg (not_not_intro hversion),
    if_neg (by omega), if_neg (Nat.not_lt.mpr hroom)]

/-- From ERR 0, PARSE raises the kind that its checks name and changes only ERR (rule R112). -/
theorem exec_parse_of_error {s : State} {k : ErrKind} (herr : s.err = 0)
    (hcheck : parsePage Config.params s = .error k) : exec .parse s = .next { s with err := k.code } := by
  rw [exec_of_clear herr, effect, opParse, hcheck]
  rfl

/-- A PARSE from ERR 0 that leaves ERR 0 found a page. -/
theorem parsePage_of_exec_parse {s t : State} (herr : s.err = 0) (hexec : exec .parse s = .next t)
    (ht : t.err = 0) : ∃ pg, parsePage Config.params s = .ok pg := by
  rw [exec_of_clear herr] at hexec
  cases hexec
  rcases checked_cases (parsePage Config.params s) loadPage s with ⟨k, -, hraise⟩ | ⟨pg, hok, -⟩
  · rw [effect, opParse, hraise] at ht
    exact absurd ht k.code_ne_zero
  · exact ⟨pg, hok⟩

end Sys2Proof.Machine

namespace Sys2Proof.Claims

open Sys2Proof.Machine

/-! ### A flipped bit in the frame buffer -/

@[simp] theorem flipBit_err (a i : Nat) (s : State) : (flipBit a i s).err = s.err := rfl
@[simp] theorem flipBit_pos (a i : Nat) (s : State) : (flipBit a i s).pos = s.pos := rfl

theorem flippedByte_ne {i : Nat} (hi : i < 8) (b : Byte) : b ^^^ (1#8 <<< i) ≠ b := by
  have hmask : ∀ j < 8, 1#8 <<< j ≠ 0 := by decide
  intro h
  exact hmask i hi ((BitVec.xor_right_inj b).mp (h.trans BitVec.xor_zero.symm))

theorem fbByte_flipBit_same (a i : Nat) (s : State) :
    (flipBit a i s).fbByte a = s.fbByte a ^^^ (1#8 <<< i) := by
  rw [State.fbByte, flipBit, readByte_writeEntries, if_pos (by simp)]
  simp

theorem fbBytes_flipBit_outside {a b n : Nat} (i : Nat) (s : State) (h : a < b ∨ b + n ≤ a) :
    (flipBit a i s).fbBytes b n = s.fbBytes b n :=
  readBytes_writeEntries_outside (by rw [List.length_singleton]; omega)

theorem fbByte_flipBit_outside {a b : Nat} (i : Nat) (s : State) (h : a ≠ b) :
    (flipBit a i s).fbByte b = s.fbByte b := by
  rw [State.fbByte, flipBit, readByte_writeEntries, if_neg (by rw [List.length_singleton]; omega)]
  rfl

/-- A string that covers the flipped byte has that byte replaced. -/
theorem fbBytes_flipBit_inside {k n : Nat} (p i : Nat) (s : State) (hk : k < n) :
    (flipBit (p + k) i s).fbBytes p n = (s.fbBytes p n).set k (s.fbByte (p + k) ^^^ (1#8 <<< i)) := by
  apply List.ext_getElem?
  intro j
  rw [List.getElem?_set, State.fbBytes_length, State.fbBytes, State.fbBytes, readBytes_getElem?,
    readBytes_getElem?]
  by_cases hj : k = j
  · subst hj
    rw [if_pos hk, if_pos rfl, if_pos hk]
    exact congrArg some (fbByte_flipBit_same (p + k) i s)
  · rw [if_neg hj]
    split
    · exact congrArg some (fbByte_flipBit_outside i s (by omega))
    · rfl

theorem fbBytes_set_self {k n : Nat} (p : Nat) (s : State) (hk : k < n) :
    (s.fbBytes p n).set k (s.fbByte (p + k)) = s.fbBytes p n := by
  have hget : (s.fbBytes p n)[k]'(by simpa using hk) = s.fbByte (p + k) := by
    simp [State.fbBytes, readBytes, State.fbByte]
  rw [← hget, List.set_getElem_self]

theorem fbBytes_flipBit_ne {a b n i : Nat} (s : State) (hlo : b ≤ a) (hhi : a < b + n) (hi : i < 8) :
    (flipBit a i s).fbBytes b n ≠ s.fbBytes b n := by
  intro h
  obtain ⟨k, rfl⟩ := Nat.exists_eq_add_of_le hlo
  have hk : k < n := by omega
  have hbyte := congrArg (·[k]?) h
  simp only [State.fbBytes, readBytes_getElem?, if_pos hk, Option.some.injEq] at hbyte
  exact flippedByte_ne hi _ ((fbByte_flipBit_same (b + k) i s).symm.trans hbyte)

/-! ### The checksum of a page with a flipped bit (rules R102, R106) -/

/-- The recomputed checksum does not see the checksum field. -/
theorem pageCrc_flipBit_field {k n : Nat} (P : Params) (p i : Nat) (s : State) (hk : k < n) (hlo : 22 ≤ k)
    (hhi : k < 26) : pageCrc P (flipBit (p + k) i s).fb p n = pageCrc P s.fb p n := by
  have hbytes := fbBytes_flipBit_inside p i s hk
  rw [State.fbBytes] at hbytes
  rw [pageCrc, hbytes, zeroChecksum_set_field hlo hhi]
  rfl

/-- The recomputed checksum sees every bit outside the checksum field. -/
theorem pageCrc_flipBit_ne {P : Params} (hodd : P.crcPoly.getLsbD 0 = true) {k n i : Nat} (p : Nat) (s : State)
    (hn : 26 ≤ n) (hk : k < n) (hout : k < 22 ∨ 26 ≤ k) (hi : i < 8) :
    pageCrc P (flipBit (p + k) i s).fb p n ≠ pageCrc P s.fb p n := by
  have crc_set : ∀ b, crc32 P (zeroChecksum ((s.fbBytes p n).set k b)) =
      crc32 P ((zeroChecksum (s.fbBytes p n)).set k b) := fun b => by
    rw [zeroChecksum_set_outside (by simpa using hn) hout]
  have hlen : k < (zeroChecksum (s.fbBytes p n)).length := by
    simp [zeroChecksum]
    omega
  have hflip : pageCrc P (flipBit (p + k) i s).fb p n =
      crc32 P (zeroChecksum ((s.fbBytes p n).set k (s.fbByte (p + k) ^^^ (1#8 <<< i)))) := by
    rw [← fbBytes_flipBit_inside p i s hk]
    rfl
  have hself : pageCrc P s.fb p n = crc32 P (zeroChecksum ((s.fbBytes p n).set k (s.fbByte (p + k)))) := by
    rw [fbBytes_set_self p s hk]
    rfl
  rw [hflip, hself, crc_set, crc_set]
  exact fun h => flippedByte_ne hi _ (crc32_set_injective hodd hlen h)

/-- Where the stored checksum is the recomputed one, a flipped bit changes exactly one of the two. -/
theorem pageCrc_flipBit_ne_stored {P : Params} (hodd : P.crcPoly.getLsbD 0 = true) {k n p i : Nat} {s : State}
    (hvalid : pageCrc P s.fb p n = fld P 32 (s.fbBytes (p + 22) 4)) (hn : 26 ≤ n) (hk : k < n) (hi : i < 8) :
    pageCrc P (flipBit (p + k) i s).fb p n ≠ fld P 32 ((flipBit (p + k) i s).fbBytes (p + 22) 4) := by
  by_cases hfield : 22 ≤ k ∧ k < 26
  · obtain ⟨hlo, hhi⟩ := hfield
    rw [pageCrc_flipBit_field P p i s hk hlo hhi, hvalid]
    intro hstored
    have hbytes := fld_inj (by simp) (by simp) hstored
    exact fbBytes_flipBit_ne s (by omega) (by omega) hi hbytes.symm
  · rw [fbBytes_flipBit_outside i s (by omega), ← hvalid]
    exact pageCrc_flipBit_ne hodd p s hn hk (by omega) hi

/-! ### PARSE of a page with a flipped bit (rules R63, R68, R106) -/

/-- The type-flags byte with one bit flipped is undecodable: any two of the codes differ in two bits. -/
theorem typeDecode_flipped {b : Byte} {t : PageType} {i : Nat} (hb : typeDecode Config.params b = some t)
    (hi : i < 8) : typeDecode Config.params (b ^^^ (1#8 <<< i)) = none := by
  have flipped : ∀ j < 8, typeDecode Config.params (typeCode Config.params t ^^^ (1#8 <<< j)) = none := by
    cases t <;> decide
  rw [← typeCode_of_typeDecode hb]
  exact flipped i hi

theorem parsePage_flipBit_header {s : State} {pg : Page} {k i : Nat} (hok : parsePage Config.params s = .ok pg)
    (hk : k < 6) (hi : i < 8) :
    parsePage Config.params (flipBit (s.pos.toNat + k) i s) = .error .malformedHeader := by
  obtain ⟨hmagic, hversion, ⟨t, htype, hpage⟩, hroom, -⟩ := parsePage_ok hok
  have hheader : 27 ≤ s.avail s.pos.toNat := by
    rw [hpage, pageAt_length] at hroom
    omega
  refine parsePage_malformed hheader ?_
  rw [flipBit_pos]
  obtain hk | rfl | rfl : k < 4 ∨ k = 4 ∨ k = 5 := by omega
  · exact .inl (hmagic ▸ fbBytes_flipBit_ne s (by omega) (by omega) hi)
  · refine .inr (.inl ?_)
    rw [fbByte_flipBit_same, hversion]
    exact flippedByte_ne hi 0
  · refine .inr (.inr ?_)
    rw [fbByte_flipBit_same]
    exact typeDecode_flipped htype hi

/-- A bit flipped after the first six bytes and outside the segment count and the table leaves the page's extent
and the checks of its header as they were, so that the checksum decides. -/
theorem parsePage_flipBit_body {P : Params} (hodd : P.crcPoly.getLsbD 0 = true) {s : State} {pg : Page}
    {k i : Nat} (hok : parsePage P s = .ok pg) (hi : i < 8) (hlo : 6 ≤ k) (hk : k < pg.length)
    (hout : k < 26 ∨ 27 + (s.fbByte (s.pos.toNat + 26)).toNat ≤ k) :
    parsePage P (flipBit (s.pos.toNat + k) i s) = .error .checksumMismatch := by
  obtain ⟨hmagic, hversion, ⟨t, htype, hpage⟩, hroom, hcrc⟩ := parsePage_ok hok
  have hmagic' := (fbBytes_flipBit_outside (a := s.pos.toNat + k) i s (by omega)).trans hmagic
  have hversion' := (fbByte_flipBit_outside (a := s.pos.toNat + k) i s (by omega)).trans hversion
  have htype_eq := fbByte_flipBit_outside (a := s.pos.toNat + k) (b := s.pos.toNat + 5) i s (by omega)
  have hcount := fbByte_flipBit_outside (a := s.pos.toNat + k) (b := s.pos.toNat + 26) i s (by omega)
  have hlength : pg.length = (pageAt P (flipBit (s.pos.toNat + k) i s) s.pos.toNat
      ((flipBit (s.pos.toNat + k) i s).fbByte (s.pos.toNat + 26)).toNat t).length := by
    rw [hcount, pageAt_length, fbBytes_flipBit_outside i s (by omega), hpage, pageAt_length]
  have hvalid : pageCrc P s.fb s.pos.toNat pg.length = fld P 32 (s.fbBytes (s.pos.toNat + 22) 4) := by
    rw [hcrc, hpage]
    rfl
  have hlong : 26 ≤ pg.length := by
    rw [hpage, pageAt_length]
    omega
  have hmismatch := pageCrc_flipBit_ne_stored hodd hvalid hlong hk hi
  rw [hlength] at hroom hmismatch
  exact (parsePage_of_whole hmagic' hversion' (htype_eq ▸ htype) rfl hroom).trans (if_pos hmismatch)

/-- Settles O15: the first six bytes are checked bit for bit; after them the flipped page is judged by its checksum,
and exactly one of the stored and the recomputed checksum has changed. -/
theorem flippedBitFailsParse : Obligations.FlippedBitFailsParse := by
  intro s t k i herr hexec ht hi hk hout
  obtain ⟨pg, hok⟩ := parsePage_of_exec_parse herr hexec ht
  by_cases hheader : k < 6
  · rw [if_pos hheader]
    exact exec_parse_of_error ((flipBit_err ..).trans herr) (parsePage_flipBit_header hok hheader hi)
  · obtain ⟨-, -, ⟨ty, -, hpage⟩, -⟩ := parsePage_ok hok
    have hlength : pg.length = lengthAt s := by
      rw [hpage, pageAt_length]
      rfl
    rw [if_neg hheader]
    exact exec_parse_of_error ((flipBit_err ..).trans herr)
      (parsePage_flipBit_body (by decide) hok hi (by omega) (hlength ▸ hk) hout)

end Sys2Proof.Claims
end

section
/-!
The page buffer (rules R81 to R84): what WRITE accepts, counts and stores, and that two WRITEs store what one WRITE
of the joined string stores. Then the page invariant (rule R32): of an empty page, of a page loaded by PARSE, and of
a table built by LACE.
-/

namespace Sys2Proof.Machine

/-! ### What an operation answers from ERR = 0 -/

theorem eq_effect_of_exec {i : Instr} {s t : State} (herr : s.err = 0) (hexec : exec i s = .next t) :
    t = effect Config.params i s :=
  (Host.Outcome.next.inj ((exec_of_clear herr i).symm.trans hexec)).symm

theorem run_of_clear {s : State} (herr : s.err = 0) (i : Instr) : run i s = effect Config.params i s :=
  runWith_params ▸ runWith_of_clear Config.params herr i

/-! ### WRITE (rule R83) -/

/-- One string after another in a memory reads as the joined string. -/
theorem readByte_writeEntries_append (sp : Space) (m : List Host.Cell) (base : Nat) (x y : List Byte) (a : Nat) :
    readByte sp (writeEntries (writeEntries m base x) (base + x.length) y) a =
      readByte sp (writeEntries m base (x ++ y)) a := by
  simp only [readByte_writeEntries, List.length_append]
  by_cases hlow : a < base
  · rw [if_neg (by omega), if_neg (by omega), if_neg (by omega)]
  · by_cases hx : a < base + x.length
    · rw [if_neg (by omega), if_pos (by omega), if_pos (by omega), List.getElem?_append_left (by omega)]
    · by_cases hy : a < base + x.length + y.length
      · rw [if_pos (by omega), if_pos (by omega), List.getElem?_append_right (by omega), Nat.sub_sub]
      · rw [if_neg (by omega), if_neg (by omega), if_neg (by omega)]

section
variable (w : List Byte) (s : State)

theorem take_writeAccepts_length : (w.take (writeAccepts w s)).length = writeAccepts w s := by
  rw [List.length_take, writeAccepts]
  omega

@[simp] theorem opWrite_err : (opWrite w s).err = s.err := rfl

@[simp] theorem opWrite_data :
    (opWrite w s).data = writeEntries s.data s.dlen.toNat (w.take (writeAccepts w s)) := rfl

@[simp] theorem toNat_opWrite_res : (opWrite w s).res.toNat = writeAccepts w s := by
  change (BitVec.ofNat 32 (writeAccepts w s)).toNat = _
  rw [BitVec.toNat_ofNat, Nat.mod_eq_of_lt]
  unfold writeAccepts
  omega

/-- DLEN does not wrap: a payload at capacity accepts nothing, and neither does one above it. -/
@[simp] theorem toNat_opWrite_dlen : (opWrite w s).dlen.toNat = s.dlen.toNat + writeAccepts w s := by
  change (BitVec.ofNat 17 (s.dlen.toNat + writeAccepts w s)).toNat = _
  have hdlen := s.dlen.isLt
  rw [BitVec.toNat_ofNat, Nat.mod_eq_of_lt]
  unfold writeAccepts
  omega

theorem sameOutside_opWrite :
    Claims.sameOutside .data s.data (opWrite w s).data s.dlen.toNat (writeAccepts w s) := by
  intro a ha
  rw [opWrite_data, readByte_writeEntries, take_writeAccepts_length, if_neg (by omega)]

theorem writeAccepts_append (w' : List Byte) :
    writeAccepts (w ++ w') s = writeAccepts w s + writeAccepts w' (opWrite w s) := by
  simp only [writeAccepts, toNat_opWrite_dlen, List.length_append]
  omega

/-- The second string is accepted only where the first was accepted whole. -/
theorem take_writeAccepts_append (w' : List Byte) :
    (w ++ w').take (writeAccepts (w ++ w') s) =
      w.take (writeAccepts w s) ++ w'.take (writeAccepts w' (opWrite w s)) := by
  have hfirst : w.take (writeAccepts (w ++ w') s) = w.take (writeAccepts w s) := by
    rw [List.take_eq_take_iff]
    simp only [writeAccepts, List.length_append]
    omega
  have hsecond : w'.take (writeAccepts (w ++ w') s - w.length) = w'.take (writeAccepts w' (opWrite w s)) := by
    rw [List.take_eq_take_iff]
    simp only [writeAccepts, toNat_opWrite_dlen, List.length_append]
    omega
  rw [List.take_append, hfirst, hsecond]

theorem opWrite_opWrite_dlen (w' : List Byte) : (opWrite w' (opWrite w s)).dlen = (opWrite (w ++ w') s).dlen :=
  BitVec.eq_of_toNat_eq <| by
    rw [toNat_opWrite_dlen, toNat_opWrite_dlen, toNat_opWrite_dlen, writeAccepts_append, Nat.add_assoc]

theorem readByte_opWrite_opWrite (w' : List Byte) (a : Nat) :
    readByte .data (opWrite w' (opWrite w s)).data a = readByte .data (opWrite (w ++ w') s).data a := by
  have hdlen : (opWrite w s).dlen.toNat = s.dlen.toNat + (w.take (writeAccepts w s)).length := by
    rw [toNat_opWrite_dlen, take_writeAccepts_length]
  rw [opWrite_data w', opWrite_data w, hdlen, readByte_writeEntries_append, ← take_writeAccepts_append, opWrite_data]

end

/-! ### The page invariant (rules R32, R85, R96) -/

theorem State.pageInvariant_of_empty {s : State} (hnseg : s.nseg = 0) (hdlen : s.dlen = 0) : s.PageInvariant := by
  rw [State.PageInvariant, State.table, hnseg, hdlen]
  rfl

/-- A table written from index 0 is the state's table where NSEG is its length. -/
theorem State.table_of_writeEntries {s : State} {m : List Host.Cell} {t : List Byte} (hlen : t.length ≤ 255)
    (hsegtab : s.segtab = writeEntries m 0 t) (hnseg : s.nseg = BitVec.ofNat 8 t.length) : s.table = t := by
  rw [State.table, hsegtab, hnseg, BitVec.toNat_ofNat, Nat.mod_eq_of_lt (by omega), readBytes_writeEntries_same]

theorem loadTable_table {t : List Byte} (hlen : t.length ≤ 255) (s : State) : (loadTable t s).table = t :=
  State.table_of_writeEntries hlen rfl rfl

theorem loadPage_table {pg : Page} (hlen : pg.table.length ≤ 255) (s : State) : (loadPage pg s).table = pg.table :=
  State.table_of_writeEntries hlen rfl rfl

/-- `lace(L)` stands for `L` bytes (rules R93, R95). -/
theorem sumTable_lace {l : Nat} {t : List Byte} (h : lace l = some t) : sumTable t = l := by
  have sumTable_replicate : ∀ k, sumTable (List.replicate k 255#8) = k * 255 := fun k => by simp [sumTable]
  unfold lace at h
  split at h
  · cases h
    have hlast : (BitVec.ofNat 8 (l % 255)).toNat = l % 255 := by
      rw [BitVec.toNat_ofNat, Nat.mod_eq_of_lt (by omega)]
    rw [sumTable_append, sumTable_replicate, sumTable_cons, sumTable_nil, hlast]
    omega
  · split at h <;> cases h
    rw [sumTable_replicate]
    omega

theorem lace_isSome {l : Nat} (h : l ≤ 65025) : ∃ t, lace l = some t := by
  unfold lace
  split
  · exact ⟨_, rfl⟩
  · rw [if_pos (by omega)]
    exact ⟨_, rfl⟩

/-- LACE with `ARG = DLEN` within the capacity gives the page its invariant (rule R94). -/
theorem opLace_pageInvariant {s : State} (hdlen : s.dlen.toNat ≤ 65025) (harg : s.arg.toNat = s.dlen.toNat) :
    (opLace s).PageInvariant := by
  obtain ⟨t, ht⟩ := lace_isSome (harg ▸ hdlen)
  have heq : opLace s = loadTable t s := by rw [opLace, laceCheck, ht, checked_ok]
  have hsum : sumTable t = s.dlen.toNat := (sumTable_lace ht).trans harg
  rw [heq, State.PageInvariant, loadTable_table (lace_length_le ht), hsum]
  rfl

/-- The page that PARSE loads has its invariant: its payload is as long as its table says (rule R112). -/
theorem loadPage_pageInvariant {P : Params} {s : State} {pg : Page} (h : parsePage P s = .ok pg) :
    (loadPage pg s).PageInvariant := by
  obtain ⟨-, -, ⟨ty, -, hpage⟩, -, -⟩ := parsePage_ok h
  have hbounds := pageAt_bounds P s s.pos.toNat (s.fbByte (s.pos.toNat + 26)) ty
  rw [← hpage] at hbounds
  obtain ⟨htable, hpayload, hsum⟩ := hbounds
  have hdlen : (loadPage pg s).dlen.toNat = pg.payload.length := by
    change (BitVec.ofNat 17 pg.payload.length).toNat = _
    rw [BitVec.toNat_ofNat, Nat.mod_eq_of_lt (by omega)]
  rw [State.PageInvariant, loadPage_table htable, hdlen, hsum]

/-! ### RESET as NEW, FB_RESET and CLR_ERR (rule R181) -/

theorem status_opFbReset_opNew (s : State) : (opFbReset (opNew s)).status = 0 :=
  status_ext (t := State.reset) (setLenv_lenv _ _) ((setLenv_openRun _ _).trans (dropSubSegs_openRun _))

theorem opReset_eq (s : State) : opReset s = { clearError (opFbReset (opNew s)) with arg := 0, res := 0 } :=
  congrArg (fun status => { clearError (opFbReset (opNew s)) with arg := 0, res := 0, status := status })
    (status_opFbReset_opNew s).symm

end Sys2Proof.Machine

namespace Sys2Proof.Claims

open Sys2Proof.Machine

/-! ### The statements on the page and its payload (rules R32, R81 to R84, R181) -/

/-- Settles O3: the string that fits is written at DLEN and nothing else is, and neither RES nor DLEN wraps. -/
theorem writeAppendsWhatFits : Obligations.WriteAppendsWhatFits := by
  intro w
  refine ⟨decode_encode (.write w), fun s herr => ⟨opWrite w s, exec_of_clear herr (.write w), rfl,
    dropSubSegs_openRun _, dropSubSegs_lenv _, toNat_opWrite_res w s, ?_, ?_, ?_⟩⟩
  · rw [toNat_opWrite_dlen, toNat_opWrite_res]
  · have hwritten := readBytes_writeEntries_same .data s.data s.dlen.toNat (w.take (writeAccepts w s))
    rwa [take_writeAccepts_length, ← opWrite_data, ← toNat_opWrite_res] at hwritten
  · rw [toNat_opWrite_res]
    exact sameOutside_opWrite w s

/-- Settles O4: the second WRITE accepts bytes only where the first accepted all of its own, so what both accept is
what fits of the joined string, and it stands in the same cells. -/
theorem fourLawsOfWrite : Obligations.FourLawsOfWrite := by
  intro s t w herr hexec
  cases eq_effect_of_exec herr hexec
  refine ⟨⟨toNat_opWrite_res w s, ?_⟩, fun w' t' u hsecond hjoined => ?_, fun a ha => ?_,
    rfl, rfl, rfl, rfl, rfl, rfl, rfl⟩
  · rw [effect, toNat_opWrite_dlen, toNat_opWrite_res]
  · cases eq_effect_of_exec ((opWrite_err w s).trans herr) hsecond
    cases eq_effect_of_exec herr hjoined
    exact ⟨opWrite_opWrite_dlen w s w', readByte_opWrite_opWrite w s w'⟩
  · exact sameOutside_opWrite w s a (.inl ha)

/-- Settles O44: RESET, NEW and CLEAR leave an empty page, PARSE one whose payload is as long as its table says, and
LACE a table that stands for ARG bytes. -/
theorem pageInvariantHoldsAfter : Obligations.PageInvariantHoldsAfter := by
  intro s t herr
  have of_empty : ∀ {i : Instr}, exec i s = .next t → (effect Config.params i s).nseg = 0 →
      (effect Config.params i s).dlen = 0 → t.PageInvariant := fun hexec hnseg hdlen =>
    eq_effect_of_exec herr hexec ▸ State.pageInvariant_of_empty hnseg hdlen
  refine ⟨fun hexec => of_empty hexec rfl rfl, fun hexec => of_empty hexec rfl rfl,
    fun hexec => of_empty hexec rfl rfl, fun hexec ht => ?_, fun hdlen harg hexec => ?_⟩
  · obtain ⟨pg, hpage⟩ := parsePage_of_exec_parse herr hexec ht
    rw [eq_effect_of_exec herr hexec, effect, opParse, hpage, checked_ok]
    exact loadPage_pageInvariant hpage
  · rw [eq_effect_of_exec herr hexec]
    exact opLace_pageInvariant hdlen harg

/-- Settles O1: NEW's writes are the registers named, and its page is empty. -/
theorem newMakesFreshEmptyPage : Obligations.NewMakesFreshEmptyPage := by
  refine ⟨decode_encode .new, fun s herr => ⟨opNew s, exec_of_clear herr .new, rfl, dropSubSegs_openRun _,
    dropSubSegs_lenv _, State.pageInvariant_of_empty rfl rfl, ?_⟩⟩
  rw [State.page_length]
  rfl

/-- Settles O2: CLEAR's writes are the registers named. -/
theorem clearEmptiesPayloadKeepsHeader : Obligations.ClearEmptiesPayloadKeepsHeader :=
  ⟨decode_encode .clear, fun s herr => ⟨opClear s, exec_of_clear herr .clear, rfl, dropSubSegs_openRun _,
    dropSubSegs_lenv _⟩⟩

/-- Settles O35: NEW and FB_RESET leave ERR at 0, so the three operations run; together they clear both flags. -/
theorem resetIsNewFbResetClrErr : Obligations.ResetIsNewFbResetClrErr := by
  intro s herr
  have hnew : run .new s = opNew s := run_of_clear herr .new
  have hfbReset : run .fbReset (opNew s) = opFbReset (opNew s) := run_of_clear (s := opNew s) herr .fbReset
  rw [exec_of_clear herr, hnew, hfbReset]
  exact congrArg Host.Outcome.next (opReset_eq s)

end Sys2Proof.Claims
end

section
/-!
Lacing (rules R90 to R96): a segment table read as runs of 255, its sub-segments contiguous and as long as the payload,
what GET_SEGMENTS and LACE leave, and the form of `lace(L)`. Then which operation raises what (rule R161), and SEAL
(rule R119).
-/

namespace Sys2Proof.Machine

/-- A number that fits in a register is what the register holds. -/
theorem toNat_ofNat_of_lt {n k : Nat} (h : k < 2 ^ n) : (BitVec.ofNat n k).toNat = k := by
  rw [BitVec.toNat_ofNat, Nat.mod_eq_of_lt h]

/-! ### A table read as runs of 255 (rule R91) -/

theorem scanTable_cons_of_lt {v : Byte} (h : v.toNat < 255) (t : List Byte) (start run : Nat) :
    scanTable (v :: t) start run =
      ({ off := BitVec.ofNat 17 start, len := BitVec.ofNat 17 (run + v.toNat) } ::
        (scanTable t (start + (run + v.toNat)) 0).1, (scanTable t (start + (run + v.toNat)) 0).2) := by
  rw [scanTable, if_pos h]

theorem scanTable_cons_of_not_lt {v : Byte} (h : ¬ v.toNat < 255) (t : List Byte) (start run : Nat) :
    scanTable (v :: t) start run = scanTable t start (run + v.toNat) := by
  rw [scanTable, if_neg h]

theorem scanTable_replicate_append (k : Nat) (t : List Byte) (start run : Nat) :
    scanTable (List.replicate k 255#8 ++ t) start run = scanTable t start (run + 255 * k) := by
  induction k generalizing run with
  | zero => rfl
  | succ k ih =>
    rw [List.replicate_succ, List.cons_append, scanTable_cons_of_not_lt (by decide), ih,
      show (255#8).toNat = 255 from rfl, Nat.mul_succ, Nat.add_assoc, Nat.add_comm 255]

/-- The descriptor of a sub-segment that starts `a` bytes later. -/
def shiftSubSeg (a : Nat) (d : SubSeg) : SubSeg := { off := BitVec.ofNat 17 a + d.off, len := d.len }

/-- A table read from `a` bytes further on has the same sub-segments, each `a` bytes further on. -/
theorem scanTable_shift (t : List Byte) (a start run : Nat) :
    scanTable t (a + start) run =
      ((scanTable t start run).1.map (shiftSubSeg a), a + (scanTable t start run).2.1,
        (scanTable t start run).2.2) := by
  induction t generalizing start run with
  | nil => rfl
  | cons v t ih =>
    by_cases hv : v.toNat < 255
    · rw [scanTable_cons_of_lt hv, scanTable_cons_of_lt hv, Nat.add_assoc, ih, List.map_cons, shiftSubSeg,
        BitVec.ofNat_add]
    · rw [scanTable_cons_of_not_lt hv, scanTable_cons_of_not_lt hv, ih]

theorem endsOpen_replicate {k : Nat} (h : 0 < k) : endsOpen (List.replicate k 255#8) = true := by
  simp [endsOpen, List.getLast?_replicate, Nat.ne_of_gt h]

theorem endsOpen_append_cons_of_lt {r : Byte} (h : r.toNat < 255) (u rest : List Byte) :
    endsOpen (u ++ r :: rest) = endsOpen rest := by
  rw [← endsOpen_cons_of_lt h rest, endsOpen, endsOpen, List.getLast?_append_cons]

/-- A trailing run of 255 is one unterminated sub-segment. -/
theorem subSegments_replicate {k : Nat} (h : 0 < k) :
    subSegments (List.replicate k 255#8) = [{ off := 0, len := BitVec.ofNat 17 (255 * k) }] := by
  have hscan : scanTable (List.replicate k 255#8) 0 0 = ([], 0, 255 * k) := by
    have := scanTable_replicate_append k [] 0 0
    rwa [List.append_nil, Nat.zero_add] at this
  rw [subSegments, hscan, endsOpen_replicate h]
  rfl

/-- Entries of 255 and one below 255 are one sub-segment, and the reading goes on where it ends. -/
theorem subSegments_run_cons (k : Nat) {r : Byte} (h : r.toNat < 255) (rest : List Byte) :
    subSegments (List.replicate k 255#8 ++ r :: rest) =
      { off := 0, len := BitVec.ofNat 17 (255 * k + r.toNat) } ::
        (subSegments rest).map (shiftSubSeg (255 * k + r.toNat)) := by
  have hrest := scanTable_shift rest (255 * k + r.toNat) 0 0
  rw [Nat.add_zero] at hrest
  simp only [subSegments, endsOpen_append_cons_of_lt h, scanTable_replicate_append, scanTable_cons_of_lt h,
    Nat.zero_add, hrest]
  cases endsOpen rest with
  | false => rfl
  | true => simp [shiftSubSeg, BitVec.ofNat_add]

/-! ### The sub-segments are contiguous (rule R90) -/

/-- The descriptors follow one another without a gap, from offset `start` to offset `stop` (rule R90). -/
def Contiguous : Nat → List SubSeg → Nat → Prop
  | start, [], stop => start = stop
  | start, d :: l, stop => d.off.toNat = start ∧ Contiguous (start + d.len.toNat) l stop

theorem Contiguous.append_singleton {start stop : Nat} {l : List SubSeg} {d : SubSeg}
    (h : Contiguous start l stop) (hoff : d.off.toNat = stop) :
    Contiguous start (l ++ [d]) (stop + d.len.toNat) := by
  induction l generalizing start with
  | nil =>
    cases h
    exact ⟨hoff, rfl⟩
  | cons e l ih => exact ⟨h.1, ih h.2⟩

theorem Contiguous.sum_len {start stop : Nat} {l : List SubSeg} (h : Contiguous start l stop) :
    start + (l.map fun d => d.len.toNat).sum = stop := by
  induction l generalizing start with
  | nil => exact h
  | cons e l ih =>
    rw [List.map_cons, List.sum_cons, ← Nat.add_assoc]
    exact ih h.2

theorem Contiguous.off_eq {start stop j : Nat} {l : List SubSeg} {d : SubSeg} (h : Contiguous start l stop)
    (hd : l[j]? = some d) : d.off.toNat = start + ((l.take j).map fun e => e.len.toNat).sum := by
  induction l generalizing start j with
  | nil => cases hd
  | cons e l ih =>
    cases j with
    | zero =>
      cases hd
      exact h.1
    | succ j =>
      rw [List.take_succ_cons, List.map_cons, List.sum_cons, ← Nat.add_assoc]
      exact ih h.2 hd

/-- The run left at the end stops where the table's bytes do. -/
theorem scanTable_stop (t : List Byte) (start run : Nat) :
    (scanTable t start run).2.1 + (scanTable t start run).2.2 = start + run + sumTable t := by
  induction t generalizing start run with
  | nil => rfl
  | cons v t ih =>
    by_cases hv : v.toNat < 255
    · rw [scanTable_cons_of_lt hv, ih, sumTable_cons]
      omega
    · rw [scanTable_cons_of_not_lt hv, ih, sumTable_cons]
      omega

/-- No bytes are left over after a table that ends terminated. -/
theorem scanTable_run_eq_zero {t : List Byte} {start run : Nat} (h : endsOpen t = false)
    (hrun : t = [] → run = 0) : (scanTable t start run).2.2 = 0 := by
  induction t generalizing start run with
  | nil => exact hrun rfl
  | cons v t ih =>
    by_cases hv : v.toNat < 255
    · rw [scanTable_cons_of_lt hv]
      exact ih ((endsOpen_cons_of_lt hv t).symm.trans h) fun _ => rfl
    · rw [scanTable_cons_of_not_lt hv]
      have hv255 : v = 255#8 := BitVec.eq_of_toNat_eq (by have := v.isLt; simp only [BitVec.toNat_ofNat]; omega)
      cases t with
      | nil => simp [endsOpen, hv255] at h
      | cons u t => exact ih (by simpa [endsOpen] using h) (by simp)

theorem scanTable_contiguous {t : List Byte} {start run : Nat} (h : start + run + sumTable t < 2 ^ 17) :
    Contiguous start (scanTable t start run).1 (scanTable t start run).2.1 := by
  induction t generalizing start run with
  | nil => rfl
  | cons v t ih =>
    rw [sumTable_cons] at h
    by_cases hv : v.toNat < 255
    · have hlen : (BitVec.ofNat 17 (run + v.toNat)).toNat = run + v.toNat := toNat_ofNat_of_lt (by omega)
      rw [scanTable_cons_of_lt hv]
      refine ⟨toNat_ofNat_of_lt (by omega), ?_⟩
      rw [hlen]
      exact ih (by omega)
    · rw [scanTable_cons_of_not_lt hv]
      exact ih (by omega)

/-- The sub-segments of a table cover its bytes, the unterminated run included. -/
theorem subSegments_contiguous {t : List Byte} (h : sumTable t < 2 ^ 17) :
    Contiguous 0 (subSegments t) (sumTable t) := by
  have hscan : Contiguous 0 (scanTable t 0 0).1 (scanTable t 0 0).2.1 := scanTable_contiguous (by omega)
  have hstop := scanTable_stop t 0 0
  rw [Nat.add_zero, Nat.zero_add] at hstop
  rw [subSegments]
  cases hopen : endsOpen t with
  | false =>
    rw [← hstop, scanTable_run_eq_zero hopen fun _ => rfl]
    exact hscan
  | true =>
    have hlen : (BitVec.ofNat 17 (scanTable t 0 0).2.2).toNat = (scanTable t 0 0).2.2 := toNat_ofNat_of_lt (by omega)
    have hoff : (BitVec.ofNat 17 (scanTable t 0 0).2.1).toNat = (scanTable t 0 0).2.1 := toNat_ofNat_of_lt (by omega)
    have hlast := hscan.append_singleton (d := ⟨_, BitVec.ofNat 17 (scanTable t 0 0).2.2⟩) hoff
    rwa [hlen, hstop] at hlast

/-! ### GET_SEGMENTS (rule R90) -/

section
variable (s : State)

theorem subSegments_table_length_le : (subSegments s.table).length ≤ s.nseg.toNat :=
  (subSegments_length_le s.table).trans_eq s.table_length

/-- OPEN is decided by the last valid entry of SEGTAB, where there is one. -/
theorem endsOpen_table_iff :
    endsOpen s.table = true ↔ s.nseg ≠ 0 ∧ readByte .segtab s.segtab (s.nseg.toNat - 1) = 255#8 := by
  have hzero : s.nseg ≠ 0 ↔ s.nseg.toNat - 1 < s.nseg.toNat := by
    rw [ne_eq, ← BitVec.toNat_inj, show (0 : Byte).toNat = 0 from rfl]
    omega
  rw [hzero, endsOpen, beq_iff_eq, List.getLast?_eq_getElem?, State.table_length, State.table, readBytes_getElem?,
    Nat.zero_add]
  split <;> simp [*]

theorem toNat_listSegments_nsub :
    (listSegments (subSegments s.table) s).nsub.toNat = (subSegments s.table).length := by
  have hlen := subSegments_table_length_le s
  exact toNat_ofNat_of_lt (hlen.trans_lt s.nseg.isLt)

theorem toNat_listSegments_res :
    (listSegments (subSegments s.table) s).res.toNat = (subSegments s.table).length := by
  have hlen := subSegments_table_length_le s
  have := s.nseg.isLt
  exact toNat_ofNat_of_lt (by omega)

theorem listSegments_subSegs : (listSegments (subSegments s.table) s).subSegs = subSegments s.table := by
  rw [State.subSegs, toNat_listSegments_nsub]
  exact readSub_writeEntries_all s.subseg _

theorem readSub_listSegments_outside {l : List SubSeg} {k : Nat} (h : l.length ≤ k) :
    readSub (listSegments l s).subseg k = readSub s.subseg k := by
  change readSub (writeEntries s.subseg 0 l) k = _
  rw [readSub, entryAt_writeEntries_outside (.inr (by rwa [Nat.zero_add])), readSub]

@[simp] theorem listSegments_openRun (l : List SubSeg) : (listSegments l s).openRun = endsOpen s.table :=
  setOpen_openRun _ _

@[simp] theorem listSegments_lenv (l : List SubSeg) : (listSegments l s).lenv = s.lenv :=
  setOpen_lenv _ _

end

/-- From ERR 0 and under the page invariant, GET_SEGMENTS lists the sub-segments of the table. -/
theorem exec_getSegments_of_pageInvariant {s : State} (herr : s.err = 0) (hinv : s.PageInvariant) :
    exec .getSegments s = .next (listSegments (subSegments s.table) s) := by
  rw [exec_of_clear herr, effect, opGetSegments, segmentsCheck, if_pos hinv, checked_ok]

theorem exec_getSegments_of_not_pageInvariant {s : State} (herr : s.err = 0) (hinv : ¬ s.PageInvariant) :
    exec .getSegments s = .next (raise .pageInvariant s) := by
  rw [exec_of_clear herr, effect, opGetSegments, segmentsCheck, if_neg hinv, checked_error]

/-! ### The form of `lace(L)` (rules R93, R95) -/

/-- The table of up to 65024 bytes ends in an entry below 255; that of 65025 bytes is 255 entries of 255. -/
theorem lace_cases {l : Nat} {t : List Byte} (h : lace l = some t) :
    (l ≤ 65024 ∧ t = List.replicate (l / 255) 255#8 ++ [BitVec.ofNat 8 (l % 255)]) ∨
      (l = 65025 ∧ t = List.replicate 255 255#8) := by
  unfold lace at h
  split at h
  · next hle => exact .inl ⟨hle, (Option.some.inj h).symm⟩
  · split at h <;> cases h
    exact .inr ⟨by assumption, rfl⟩

theorem lace_of_gt {l : Nat} (h : 65025 < l) : lace l = none := by
  rw [lace, if_neg (by omega), if_neg (by omega)]

theorem lace_length {l : Nat} {t : List Byte} (h : lace l = some t) : t.length = min 255 (l / 255 + 1) := by
  rcases lace_cases h with ⟨hle, rfl⟩ | ⟨rfl, rfl⟩
  · rw [List.length_append, List.length_replicate, List.length_singleton]
    omega
  · rw [List.length_replicate]
    decide

theorem toNat_ofNat_mod_255 (l : Nat) : (BitVec.ofNat 8 (l % 255)).toNat = l % 255 :=
  toNat_ofNat_of_lt (by omega)

/-- `lace(L)` is one sub-segment of `L` bytes. -/
theorem subSegments_lace {l : Nat} {t : List Byte} (h : lace l = some t) :
    subSegments t = [{ off := 0, len := BitVec.ofNat 17 l }] := by
  rcases lace_cases h with ⟨-, rfl⟩ | ⟨rfl, rfl⟩
  · have hlast := toNat_ofNat_mod_255 l
    rw [subSegments_run_cons _ (by omega), hlast, Nat.div_add_mod]
    rfl
  · exact subSegments_replicate (by decide)

/-- `lace(L)` is unterminated at the capacity only. -/
theorem endsOpen_lace {l : Nat} {t : List Byte} (h : lace l = some t) : endsOpen t = true ↔ l = 65025 := by
  rcases lace_cases h with ⟨hle, rfl⟩ | ⟨rfl, rfl⟩
  · have hlast := toNat_ofNat_mod_255 l
    have hclosed : endsOpen (List.replicate (l / 255) 255#8 ++ [BitVec.ofNat 8 (l % 255)]) = false :=
      endsOpen_append_cons_of_lt (by omega) _ []
    rw [hclosed]
    exact iff_of_false Bool.false_ne_true (by omega)
  · exact iff_of_true (endsOpen_replicate (by decide)) rfl

theorem lace_getElem?_of_not_last {l i : Nat} {t : List Byte} (h : lace l = some t) (hi : i + 1 < t.length) :
    t[i]? = some 255#8 := by
  rcases lace_cases h with ⟨-, rfl⟩ | ⟨rfl, rfl⟩
  · simp only [List.length_append, List.length_replicate, List.length_singleton] at hi
    rw [List.getElem?_append_left (by rw [List.length_replicate]; omega), List.getElem?_replicate,
      if_pos (by omega)]
  · rw [List.length_replicate] at hi
    rw [List.getElem?_replicate, if_pos (by omega)]

/-! ### LACE (rule R94) -/

theorem opLace_of_lace {s : State} {t : List Byte} (h : lace s.arg.toNat = some t) : opLace s = loadTable t s := by
  rw [opLace, laceCheck, h, checked_ok]

theorem opLace_of_gt {s : State} (h : 65025 < s.arg.toNat) : opLace s = raise .capacityExceeded s := by
  rw [opLace, laceCheck, lace_of_gt h, checked_error]

theorem toNat_loadTable_nseg {t : List Byte} (hlen : t.length ≤ 255) (s : State) :
    (loadTable t s).nseg.toNat = t.length :=
  toNat_ofNat_of_lt (by omega)

theorem toNat_loadTable_res {t : List Byte} (hlen : t.length ≤ 255) (s : State) :
    (loadTable t s).res.toNat = t.length :=
  toNat_ofNat_of_lt (by omega)

theorem sameOutside_loadTable (t : List Byte) (s : State) :
    Claims.sameOutside .segtab s.segtab (loadTable t s).segtab 0 t.length := by
  intro a ha
  change readByte .segtab (writeEntries s.segtab 0 t) a = _
  rw [readByte_writeEntries, if_neg (by omega)]

/-! ### Which kind an operation raises (rule R161) -/

/-- A checked operation whose commit keeps ERR at 0 leaves only a code of the kinds that its check names. -/
theorem checked_err_cases {α : Type} {check : Except ErrKind α} {commit : α → State → State} {s : State}
    (hcommit : ∀ a, (commit a s).err = 0) (h : (checked check commit s).err ≠ 0) :
    ∃ k, check = .error k ∧ (checked check commit s).err = k.code := by
  rcases checked_cases check commit s with ⟨k, hk, heq⟩ | ⟨a, -, heq⟩
  · exact ⟨k, hk, by rw [heq, raise_err]⟩
  · exact absurd (heq ▸ hcommit a) h

/-- The same where the check names one kind only. -/
theorem checked_err_eq {α : Type} {check : Except ErrKind α} {commit : α → State → State} {s : State}
    {kind : ErrKind} (hcommit : ∀ a, (commit a s).err = 0) (hkind : ∀ {k}, check = .error k → k = kind)
    (h : (checked check commit s).err ≠ 0) : (checked check commit s).err = kind.code := by
  obtain ⟨k, hk, hcode⟩ := checked_err_cases hcommit h
  rw [hcode, hkind hk]

/-! ### SEAL (rule R119) -/

/-- SEAL's block before its SERIALIZE: ARG holds DLEN and the table is `lace(DLEN)`. -/
def sealTable (t : List Byte) (s : State) : State := loadTable t (writeReg .arg (s.dlen.setWidth 64) s)

/-- With a payload that has a table, SEAL is SERIALIZE of the page with that table. -/
theorem sealPage_eq {P : Params} {s : State} {t : List Byte} (herr : s.err = 0) (ht : lace s.dlen.toNat = some t) :
    sealPage P s = opSerialize P (sealTable t s) := by
  have harg : (writeReg .arg (s.dlen.setWidth 64) s).arg.toNat = s.dlen.toNat := by
    change ((s.dlen.setWidth 64).setWidth 32).toNat = _
    rw [BitVec.setWidth_setWidth_of_le _ (by decide), BitVec.toNat_setWidth_of_le (by decide)]
  have hlace : runWith P .lace (writeReg .arg (s.dlen.setWidth 64) s) = sealTable t s := by
    rw [runWith_of_clear P (s := writeReg .arg (s.dlen.setWidth 64) s) herr]
    exact opLace_of_lace (harg ▸ ht)
  rw [sealPage, hlace]
  exact runWith_of_clear P (s := sealTable t s) herr .serialize

theorem sealTable_pageInvariant {s : State} {t : List Byte} (ht : lace s.dlen.toNat = some t) :
    (sealTable t s).PageInvariant := by
  rw [State.PageInvariant, sealTable, loadTable_table (lace_length_le ht)]
  exact sumTable_lace ht

end Sys2Proof.Machine

namespace Sys2Proof.Claims

open Sys2Proof.Machine

/-! ### The statements on lacing (rules R90 to R96) -/

/-- Settles O5: the list fits in SUBSEG, since the table has no more sub-segments than entries. -/
theorem getSegmentsListsTheTable : Obligations.GetSegmentsListsTheTable := by
  refine ⟨decode_encode .getSegments, fun s herr => ⟨fun hinv => ?_, exec_getSegments_of_not_pageInvariant herr⟩⟩
  refine ⟨_, exec_getSegments_of_pageInvariant herr hinv, rfl, listSegments_lenv _ _, ?_, listSegments_subSegs s, ?_,
    fun k hk => ?_⟩
  · rw [listSegments_openRun]
    exact endsOpen_table_iff s
  · rw [toNat_listSegments_res, toNat_listSegments_nsub]
  · rw [toNat_listSegments_nsub] at hk
    exact readSub_listSegments_outside s hk

/-- Settles O6: a GET_SEGMENTS that did not raise lists the sub-segments of a table that sums to DLEN, which are
contiguous from 0 to that sum. -/
theorem subSegmentsCoverThePayload : Obligations.SubSegmentsCoverThePayload := by
  intro s t herr hexec ht
  by_cases hinv : s.PageInvariant
  · cases (exec_getSegments_of_pageInvariant herr hinv).symm.trans hexec
    have hcontiguous : Contiguous 0 (subSegments s.table) s.dlen.toNat :=
      hinv ▸ subSegments_contiguous (hinv ▸ s.dlen.isLt)
    rw [listSegments_subSegs, toNat_listSegments_nsub]
    refine ⟨subSegments_table_length_le s, ?_, fun j d hd => ?_⟩
    · rw [← hcontiguous.sum_len, Nat.zero_add]
    · rw [hcontiguous.off_eq hd, Nat.zero_add]
  · cases (exec_getSegments_of_not_pageInvariant herr hinv).symm.trans hexec
    exact absurd ht ErrKind.pageInvariant.code_ne_zero

/-- Settles O7: the loop counts a run of 255 into the length of the sub-segment that it ends in. -/
theorem lacingReadsRunsOf255 : Obligations.LacingReadsRunsOf255 :=
  ⟨rfl, fun _ hk _ => ⟨subSegments_replicate hk, endsOpen_replicate hk⟩,
    fun k _ rest hr _ => ⟨subSegments_run_cons k hr rest, endsOpen_append_cons_of_lt hr _ rest⟩⟩

/-- Settles O8: up to 65025 bytes `lace(ARG)` is loaded as the table, and above there is none. -/
theorem laceBuildsTheTableOfArg : Obligations.LaceBuildsTheTableOfArg := by
  refine ⟨decode_encode .lace, fun s herr => ⟨fun harg => ?_, fun harg => ?_⟩⟩
  · obtain ⟨t, ht⟩ := lace_isSome harg
    have hlen := lace_length_le ht
    have heq : opLace s = loadTable t s := opLace_of_lace ht
    refine ⟨loadTable t s, by rw [exec_of_clear herr, effect, heq], rfl, dropSubSegs_openRun _, dropSubSegs_lenv _,
      ?_, ?_, ?_, fun hdlen => ?_⟩
    · rw [loadTable_table hlen]
      rcases lace_cases ht with ⟨hle, htable⟩ | ⟨hfull, htable⟩
      · rw [if_pos hle, htable]
      · rw [if_neg (by omega), htable]
    · rw [toNat_loadTable_res hlen, toNat_loadTable_nseg hlen]
    · rw [toNat_loadTable_nseg hlen]
      exact sameOutside_loadTable t s
    · rw [← heq]
      exact opLace_pageInvariant (hdlen ▸ harg) hdlen
  · rw [exec_of_clear herr, effect, opLace_of_gt harg]
    rfl

/-- Settles O9: `lace(L)` is one sub-segment of `L` bytes, and its sum gives `L` back. -/
theorem fiveLawsOfLacing : Obligations.FiveLawsOfLacing := by
  intro l hl
  obtain ⟨tbl, htbl⟩ := lace_isSome hl
  have hlen := lace_length htbl
  refine ⟨tbl, htbl, sumTable_lace htbl, ⟨by omega, by omega, fun _ => by omega⟩, ?_,
    fun l' _ hl' => (sumTable_lace hl').symm.trans (sumTable_lace htbl), fun i => lace_getElem?_of_not_last htbl⟩
  rintro s herr rfl hdlen
  have hinv : s.PageInvariant := (sumTable_lace htbl).trans hdlen.symm
  have hsubs := subSegments_lace htbl
  have hnsub : (listSegments (subSegments s.table) s).nsub = 1 := by
    rw [hsubs]
    rfl
  refine ⟨_, exec_getSegments_of_pageInvariant herr hinv, hnsub, ?_, ?_, ?_⟩
  · have hlisted := (listSegments_subSegs s).trans hsubs
    rw [State.subSegs, hnsub] at hlisted
    exact List.head_eq_of_cons_eq hlisted
  · rw [listSegments_openRun]
    exact endsOpen_lace htbl
  · rw [listSegments_subSegs, hsubs, ← hdlen, BitVec.ofNat_toNat, BitVec.setWidth_eq]
    rfl

/-- Settles O29: an operation that checks can leave only a code of its check's kinds, and the others keep ERR. -/
theorem onlyTheListedErrorsAreRaised : Obligations.OnlyTheListedErrorsAreRaised := by
  refine ⟨fun i s t herr hexec ht => ?_, fun c w s herr hillegal => ?_⟩
  · cases eq_effect_of_exec herr hexec
    cases i with
    | lace => exact checked_err_eq (fun _ => herr) laceCheck_error ht
    | getSegments => exact checked_err_eq (fun _ => herr) segmentsCheck_error ht
    | getChecksum => exact checked_err_eq (fun _ => herr) wholePage_error ht
    | fillChecksum => exact checked_err_eq (fun _ => herr) wholePage_error ht
    | parse =>
      obtain ⟨k, hk, hcode⟩ := checked_err_cases (fun _ => herr) ht
      rcases parsePage_error hk with rfl | rfl | rfl
      · exact .inl hcode
      · exact .inr (.inl hcode)
      · exact .inr (.inr hcode)
    | serialize =>
      obtain ⟨k, hk, hcode⟩ := checked_err_cases (fun _ => herr) ht
      rcases serializeCheck_error hk with rfl | rfl
      · exact .inl hcode
      · exact .inr hcode
    | getLength =>
      obtain ⟨b, r, heq⟩ := opGetLength_cases s
      rw [effect, heq] at ht
      exact ht herr
    | clrErr | reset => exact ht rfl
    | new | clear | write | fbReset | fbAppend | fbCompact => exact ht herr
  · rw [illegalCodeRaisesIllegalCommand c w s hillegal, if_pos herr]

/-- Settles O51: LACE gives the page its invariant, so that SERIALIZE's one check that can fail is the room in FB. -/
theorem sealFailsOnlyForWantOfRoom : Obligations.SealFailsOnlyForWantOfRoom := by
  intro P s hP herr hdlen
  obtain ⟨t, ht⟩ := lace_isSome hdlen
  have hinv := sealTable_pageInvariant ht
  have hlength : (sealTable t s).page.length = 27 + min 255 (s.dlen.toNat / 255 + 1) + s.dlen.toNat := by
    rw [State.page_length, ← lace_length ht, sealTable, toNat_loadTable_nseg (lace_length_le ht)]
    rfl
  rw [sealPage_eq herr ht, ← hlength]
  refine ⟨fun hroom => ?_, fun hroom => ?_⟩
  · obtain ⟨-, -, -, -, -, hsize, -⟩ := hP
    have hemit : opSerialize P (sealTable t s) = emitPage P (sealTable t s).page (sealTable t s) := by
      rw [opSerialize, serializeCheck_ok hinv (by rwa [← State.page_length]), checked_ok]
    have hres : (emitPage P (sealTable t s).page (sealTable t s)).res.toNat = (sealTable t s).page.length :=
      toNat_ofNat_of_lt (by omega)
    have hflen : (emitPage P (sealTable t s).page (sealTable t s)).flen.toNat =
        s.flen.toNat + (sealTable t s).page.length :=
      toNat_ofNat_of_lt (k := s.flen.toNat + (sealTable t s).page.length) (by omega)
    rw [hemit]
    refine ⟨herr, hinv, rfl, ?_, by rw [hflen, hres], hres⟩
    rw [ht]
    exact congrArg some (loadTable_table (lace_length_le ht) _).symm
  · rw [opSerialize, serializeCheck, if_neg (not_not_intro hinv), if_pos (by rwa [← State.page_length])]
    rfl

end Sys2Proof.Claims
end

section
/-!
The checksum (rules R99 to R104): the table form of `crc_step`, which is the linearity of its rounds, and leading
zeros; the page at the cursor, which GET_CHECKSUM and FILL_CHECKSUM find under one condition; and that FILL_CHECKSUM
leaves that page's extent and checksum as they were, since it writes the checksum field only.
-/

namespace Sys2Proof.Machine

/-! ### The table form (rules R100, R101) -/

theorem crcBit_xor (poly c d : Word32) : crcBit poly (c ^^^ d) = crcBit poly c ^^^ crcBit poly d := by
  unfold crcBit
  rw [BitVec.msb_xor, BitVec.shiftLeft_xor_distrib]
  cases c.msb <;> cases d.msb <;> simp [BitVec.xor_assoc, BitVec.xor_comm poly]

theorem crcBit_iterate_xor (poly : Word32) (k : Nat) (c d : Word32) :
    (crcBit poly)^[k] (c ^^^ d) = (crcBit poly)^[k] c ^^^ (crcBit poly)^[k] d := by
  induction k generalizing c d with
  | zero => rfl
  | succ k ih => rw [Function.iterate_succ_apply, crcBit_xor, ih]; rfl

/-- Rounds shift a register whose top bits are 0, since none of them meets a set bit 31. -/
theorem crcBit_iterate_of_lt (poly : Word32) (k : Nat) {c : Word32} (h : c.toNat < 2 ^ (32 - k)) (hk : k ≤ 32) :
    (crcBit poly)^[k] c = c <<< k := by
  induction k generalizing c with
  | zero => exact (BitVec.shiftLeft_zero c).symm
  | succ k ih =>
    have hpow : 2 ^ (32 - k) = 2 * 2 ^ (32 - (k + 1)) := by
      rw [← Nat.pow_succ', ← Nat.succ_sub hk, Nat.succ_sub_succ]
    have hmsb : c.msb = false := by
      have : 2 ^ (32 - (k + 1)) ≤ 2 ^ 31 := Nat.pow_le_pow_right (by decide) (by omega)
      rw [BitVec.msb_eq_false_iff_two_mul_lt]
      omega
    have hbit : crcBit poly c = c <<< 1 := by rw [crcBit, hmsb, if_neg Bool.false_ne_true]
    have hshift : (c <<< 1).toNat < 2 ^ (32 - k) := by
      rw [BitVec.toNat_shiftLeft, Nat.shiftLeft_eq]
      exact (Nat.mod_le ..).trans_lt (by omega)
    rw [Function.iterate_succ_apply, hbit, ih hshift (by omega), ← BitVec.shiftLeft_add, Nat.add_comm]

/-- A byte that enters meets the register's top byte only (rule R100). -/
theorem xor_enteringByte (c : Word32) (b : Byte) :
    c ^^^ (b.setWidth 32 <<< 24) =
      (c.setWidth 24).setWidth 32 ^^^ (((c >>> 24).setWidth 8 ^^^ b).setWidth 32 <<< 24) := by
  apply BitVec.eq_of_getLsbD_eq
  intro i hi
  simp only [BitVec.getLsbD_xor, BitVec.getLsbD_shiftLeft, BitVec.getLsbD_setWidth, BitVec.getLsbD_ushiftRight]
  by_cases hlow : i < 24
  · simp [hi, hlow]
  · have htop : i - 24 < 8 := by omega
    have hword : i - 24 < 32 := by omega
    simp [hi, hlow, htop, hword, Nat.add_sub_of_le (Nat.le_of_not_lt hlow)]

theorem setWidth_shiftLeft_eight (c : Word32) : (c.setWidth 24).setWidth 32 <<< 8 = c <<< 8 := by
  apply BitVec.eq_of_getLsbD_eq
  intro i hi
  simp only [BitVec.getLsbD_shiftLeft, BitVec.getLsbD_setWidth]
  have hlow : i - 8 < 24 := by omega
  have hword : i - 8 < 32 := by omega
  simp [hlow, hword]

theorem crcStep_tableForm (poly c : Word32) (b : Byte) :
    crcStep poly c b = (c <<< 8) ^^^ crcStep poly 0 ((c >>> 24).setWidth 8 ^^^ b) := by
  have hlow : ((c.setWidth 24).setWidth 32).toNat < 2 ^ (32 - 8) :=
    (BitVec.toNat_setWidth_of_le (by decide)).trans_lt (c.setWidth 24).isLt
  rw [crcStep, xor_enteringByte, crcBit_iterate_xor, crcBit_iterate_of_lt poly 8 hlow (by decide),
    setWidth_shiftLeft_eight]
  exact congrArg (c <<< 8 ^^^ (crcBit poly)^[8] ·) BitVec.zero_xor.symm

theorem crcStep_zero_zero (poly : Word32) : crcStep poly 0 0 = 0 :=
  crcBit_iterate_of_lt poly 8 (c := 0) (by decide) (by decide)

/-- Zero bytes leave a register that starts at 0, so a string may begin with any number of them. -/
theorem crc32_replicate_zero_append {P : Params} (hinit : P.crcInit = 0) (n : Nat) (s : List Byte) :
    crc32 P (List.replicate n 0 ++ s) = crc32 P s := by
  have hbyte : crcByteIn P 0 = 0 := by
    unfold crcByteIn
    split <;> rfl
  induction n with
  | zero => rfl
  | succ n ih =>
    rw [← ih, List.replicate_succ, List.cons_append]
    simp only [crc32, List.foldl_cons, hinit, hbyte, crcStep_zero_zero]

/-! ### Writing what stands there (rule R36) -/

/-- Writing the string that stands there already changes no byte. -/
theorem readByte_writeEntries_of_readBytes {sp : Space} {m : List Host.Cell} {base : Nat} {vs : List Byte}
    (h : readBytes sp m base vs.length = vs) (a : Nat) :
    readByte sp (writeEntries m base vs) a = readByte sp m a := by
  rw [readByte_writeEntries]
  split
  · next ha =>
    have hstands : vs[a - base]? = some (readByte sp m (base + (a - base))) := by
      rw [← h, readBytes_getElem?, if_pos (by omega)]
    rw [hstands, Nat.add_sub_of_le ha.1, Option.getD_some]
  · rfl

/-! ### The checksum of a page, and the field it leaves out (rule R102) -/

theorem zeroChecksum_readBytes (sp : Space) (m : List Host.Cell) (p k : Nat) :
    zeroChecksum (readBytes sp m p (26 + k)) =
      readBytes sp m p 22 ++ ([0, 0, 0, 0] ++ readBytes sp m (p + 26) k) := by
  rw [show 26 + k = 22 + (4 + k) from Nat.add_assoc 22 4 k, readBytes_append, readBytes_append,
    zeroChecksum_field _ (readBytes_length ..) (readBytes_length ..)]

/-- What stands in the checksum field does not count. -/
theorem pageCrc_writeEntries_field (P : Params) (m : List Host.Cell) (p : Nat) {n : Nat} (hn : 26 ≤ n)
    {field : List Byte} (hfield : field.length = 4) :
    pageCrc P (writeEntries m (p + 22) field) p n = pageCrc P m p n := by
  obtain ⟨k, rfl⟩ := Nat.exists_eq_add_of_le hn
  simp only [pageCrc, zeroChecksum_readBytes]
  rw [readBytes_writeEntries_outside (.inl (Nat.le_refl _)), readBytes_writeEntries_outside (.inr (by omega))]

/-! ### FILL_CHECKSUM's writes (rule R104) -/

section
variable (P : Params) (n : Nat) (s : State)

@[simp] theorem fillChecksum_pos : (fillChecksum P n s).pos = s.pos := rfl
@[simp] theorem fillChecksum_avail (p : Nat) : (fillChecksum P n s).avail p = s.avail p := rfl

theorem fillChecksum_fb : (fillChecksum P n s).fb =
    writeEntries s.fb (s.pos.toNat + 22) (fldBytes P (pageCrc P s.fb s.pos.toNat n)) := rfl

theorem fillChecksum_fbBytes_field :
    (fillChecksum P n s).fbBytes (s.pos.toNat + 22) 4 = fldBytes P (pageCrc P s.fb s.pos.toNat n) := by
  have hwritten := readBytes_writeEntries_same .fb s.fb (s.pos.toNat + 22) (fldBytes P (pageCrc P s.fb s.pos.toNat n))
  rwa [fldBytes_length] at hwritten

theorem sameOutside_fillChecksum :
    Claims.sameOutside .fb s.fb (fillChecksum P n s).fb (s.pos.toNat + 22) 4 := by
  intro a ha
  rw [fillChecksum_fb, readByte_writeEntries, fldBytes_length, if_neg (by omega)]

theorem fillChecksum_fbBytes_after {a k : Nat} (ha : s.pos.toNat + 26 ≤ a) :
    (fillChecksum P n s).fbBytes a k = s.fbBytes a k :=
  readBytes_congr fun i _ => sameOutside_fillChecksum P n s (a + i) (.inr (by omega))

end

end Sys2Proof.Machine

namespace Sys2Proof.Claims

open Sys2Proof.Machine

/-! ### The page at the cursor (rules R62, R103, R104, R110) -/

theorem lengthAt_of_pageExtent {s : State} {n : Nat} (h : pageExtent s s.pos.toNat = .length n) :
    n = lengthAt s := by
  rcases pageExtent_cases s s.pos.toNat with ⟨-, he⟩ | ⟨-, -, he⟩ | ⟨-, he⟩
  · cases he.symm.trans h
  · cases he.symm.trans h
  · exact (Extent.length.inj (he.symm.trans h)).symm

theorem wholePage_of_wholeAt {s : State} (h : wholeAt s) : wholePage s = .ok (lengthAt s) := by
  obtain ⟨hheader, hlength⟩ := h
  have hroom := hlength
  rw [lengthAt, segCount] at hroom
  have hextent : pageExtent s s.pos.toNat = .length (lengthAt s) := by
    rcases pageExtent_cases s s.pos.toNat with ⟨hshort, -⟩ | ⟨-, hshort, -⟩ | ⟨-, he⟩
    · omega
    · omega
    · exact he
  simp only [wholePage, hextent]
  rw [if_neg (Nat.not_lt.mpr hlength)]

theorem wholePage_of_not_wholeAt {s : State} (h : ¬ wholeAt s) : wholePage s = .error .truncated := by
  cases hcheck : wholePage s with
  | error k => rw [wholePage_error hcheck]
  | ok n =>
    obtain ⟨hextent, hlength, hheader⟩ := wholePage_ok hcheck
    exact absurd ⟨hheader.trans hlength, lengthAt_of_pageExtent hextent ▸ hlength⟩ h

/-- The check that GET_CHECKSUM and FILL_CHECKSUM share raises Truncated alone. -/
theorem checked_wholePage_of_not_wholeAt {s : State} (h : ¬ wholeAt s) (commit : Nat → State → State) :
    checked (wholePage s) commit s = { s with err := 3 } := by
  rw [wholePage_of_not_wholeAt h]
  rfl

theorem exec_getChecksum_of_wholeAt {s : State} (herr : s.err = 0) (h : wholeAt s) :
    exec .getChecksum s = .next { s with res := computedAt s } := by
  rw [exec_of_clear herr, effect, opGetChecksum, wholePage_of_wholeAt h]
  rfl

theorem exec_fillChecksum_of_wholeAt {s : State} (herr : s.err = 0) (h : wholeAt s) :
    exec .fillChecksum s = .next (fillChecksum Config.params (lengthAt s) s) := by
  rw [exec_of_clear herr, effect, opFillChecksum, wholePage_of_wholeAt h]
  rfl

/-! ### The page at the cursor after FILL_CHECKSUM -/

section
variable (P : Params) (n : Nat) (s : State)

theorem lengthAt_fillChecksum : lengthAt (fillChecksum P n s) = lengthAt s := by
  have hcount : segCount (fillChecksum P n s) = segCount s :=
    congrArg BitVec.toNat (sameOutside_fillChecksum P n s (s.pos.toNat + 26) (.inr (Nat.le_refl _)))
  rw [lengthAt, lengthAt, tableAt, tableAt, hcount, fillChecksum_pos, fillChecksum_fbBytes_after _ _ _ (by omega)]

theorem wholeAt_fillChecksum : wholeAt (fillChecksum P n s) ↔ wholeAt s := by
  rw [wholeAt, wholeAt, lengthAt_fillChecksum, fillChecksum_avail, fillChecksum_pos]

theorem computedAt_fillChecksum : computedAt (fillChecksum P n s) = computedAt s := by
  have hheader : 26 ≤ lengthAt s := by
    rw [lengthAt]
    omega
  rw [computedAt, lengthAt_fillChecksum, fillChecksum_pos, fillChecksum_fb,
    pageCrc_writeEntries_field _ _ _ hheader (fldBytes_length ..), computedAt]

end

/-- What FILL_CHECKSUM leaves of a whole page: it is whole still, and its checksum stands in RES and in its field. -/
theorem filled_of_exec_fillChecksum {s t : State} (herr : s.err = 0) (h : wholeAt s)
    (hexec : exec .fillChecksum s = .next t) :
    t.err = 0 ∧ wholeAt t ∧ t.res = computedAt t ∧
      t.fbBytes (t.pos.toNat + 22) 4 = fldBytes Config.params (computedAt t) := by
  cases (exec_fillChecksum_of_wholeAt herr h).symm.trans hexec
  rw [computedAt_fillChecksum]
  exact ⟨herr, (wholeAt_fillChecksum ..).mpr h, rfl, fillChecksum_fbBytes_field ..⟩

/-! ### The statements on the checksum (rules R100 to R106) -/

/-- Settles O10: the page is checked, then RES alone is written. -/
theorem getChecksumReportsThePageCrc : Obligations.GetChecksumReportsThePageCrc := by
  refine ⟨decode_encode .getChecksum, fun s herr => ⟨exec_getChecksum_of_wholeAt herr, fun h => ?_⟩⟩
  rw [exec_of_clear herr, effect, opGetChecksum, checked_wholePage_of_not_wholeAt h]

/-- Settles O11: the bytes of the checksum are written at offset 22, and they stand for it. -/
theorem fillChecksumStoresThePageCrc : Obligations.FillChecksumStoresThePageCrc := by
  refine ⟨decode_encode .fillChecksum, fun s herr => ⟨fun h => ?_, fun h => ?_⟩⟩
  · refine ⟨_, exec_fillChecksum_of_wholeAt herr h, rfl, ?_, sameOutside_fillChecksum _ _ _⟩
    rw [fillChecksum_fbBytes_field]
    exact fieldValue_fldBytes Config.params (computedAt s) rfl
  · rw [exec_of_clear herr, effect, opFillChecksum, checked_wholePage_of_not_wholeAt h]

/-- Settles O12: the filled page has the checksum of the page before, which RES holds and the field stores, so that
a second FILL_CHECKSUM writes the bytes that stand there. -/
theorem filledChecksumVerifies : Obligations.FilledChecksumVerifies := by
  intro s t herr h hexec
  obtain ⟨hclear, hwhole, hres, hfield⟩ := filled_of_exec_fillChecksum herr h hexec
  have hget : exec .getChecksum t = .next t := by
    rw [exec_getChecksum_of_wholeAt hclear hwhole, ← hres]
  refine ⟨hget, ?_, _, exec_fillChecksum_of_wholeAt hclear hwhole, ?_, fun a => ?_⟩
  · have hrun : runWith Config.params .getChecksum t = t := by
      rw [runWith, execWith_params, hget, settle_next]
    simp [verifyPage, hrun, hclear, hfield, fld_fldBytes, hres]
  · exact congrArg (fun r => { t with fb := (fillChecksum Config.params (lengthAt t) t).fb, res := r }) hres.symm
  · exact readByte_writeEntries_of_readBytes (by rwa [fldBytes_length]) a

/-- Settles O13: the byte and the register's top byte enter together, and the other 24 bits are shifted alone. -/
theorem crcStepHasTableForm : Obligations.CrcStepHasTableForm :=
  ⟨crcStep_tableForm, rfl, rfl, rfl, rfl, rfl, crc32_replicate_zero_append rfl⟩

/-- Settles O14: the polynomial is odd, so that the checksum tells the byte, and a flipped bit changes the byte. -/
theorem crcDetectsEverySingleBit : Obligations.CrcDetectsEverySingleBit := fun u v b _ hi h =>
  flippedByte_ne hi b (crc32_byte_injective (by decide) u v h).symm

end Sys2Proof.Claims
end

section
/-!
Length discovery and the frame buffer (rules R110, R111, R114 to R116): when a page's length is known and that it
stays known, and what GET_LENGTH, FB_APPEND and FB_COMPACT write.
-/

namespace Sys2Proof.Machine

/-! ### Length discovery (rule R110) -/

/-- A length is answered as soon as the header and the table are in the buffer (rule R110). -/
theorem pageExtent_eq_length_iff {s : State} {p n : Nat} :
    pageExtent s p = .length n ↔ 27 + (s.fbByte (p + 26)).toNat ≤ s.avail p ∧
      n = 27 + (s.fbByte (p + 26)).toNat + sumTable (s.fbBytes (p + 27) (s.fbByte (p + 26)).toNat) := by
  rcases pageExtent_cases s p with ⟨hshort, he⟩ | ⟨-, hshort, he⟩ | ⟨hroom, he⟩
  · rw [he]
    exact iff_of_false nofun fun ⟨h, _⟩ => by omega
  · rw [he]
    exact iff_of_false nofun fun ⟨h, _⟩ => by omega
  · rw [he, Extent.length.injEq, eq_comm (b := n)]
    exact (and_iff_right hroom).symm

/-- Length discovery reads valid bytes only, so more of them do not change a length that is known. -/
theorem pageExtent_of_extends {s t : State} {p n : Nat} (h : pageExtent s p = .length n)
    (hflen : s.flen.toNat ≤ t.flen.toNat) (hsame : ∀ a < s.flen.toNat, t.fbByte a = s.fbByte a) :
    pageExtent t p = .length n := by
  rw [pageExtent_eq_length_iff] at h ⊢
  obtain ⟨hroom, hlength⟩ := h
  rw [State.avail] at hroom
  have hcount : t.fbByte (p + 26) = s.fbByte (p + 26) := hsame _ (by omega)
  have htable : t.fbBytes (p + 27) (s.fbByte (p + 26)).toNat = s.fbBytes (p + 27) (s.fbByte (p + 26)).toNat :=
    readBytes_congr fun i hi => hsame _ (by omega)
  rw [hcount, htable, State.avail]
  exact ⟨by omega, hlength⟩

/-! ### GET_LENGTH (rule R111) -/

theorem opGetLength_of_needMore {s : State} {k : Nat} (h : pageExtent s s.pos.toNat = .needMore k) :
    opGetLength s = setLenv false { s with res := BitVec.ofNat 32 k } := by
  rw [opGetLength, h]

theorem opGetLength_of_length {s : State} {n : Nat} (h : pageExtent s s.pos.toNat = .length n) :
    opGetLength s = setLenv true { s with res := BitVec.ofNat 32 n } := by
  rw [opGetLength, h]

/-! ### FB_APPEND (rule R115) -/

section
variable (P : Params) (w : List Byte) (s : State)

theorem take_appendAccepts_length : (w.take (appendAccepts P w s)).length = appendAccepts P w s := by
  rw [List.length_take, appendAccepts]
  omega

theorem opFbAppend_fb :
    (opFbAppend P w s).fb = writeEntries s.fb s.flen.toNat (w.take (appendAccepts P w s)) := rfl

/-- FLEN does not wrap: a buffer at its size, or above it, accepts nothing. -/
theorem toNat_opFbAppend_flen (hsize : P.fbSize ≤ 4294967295) :
    (opFbAppend P w s).flen.toNat = s.flen.toNat + appendAccepts P w s := by
  have hflen := s.flen.isLt
  refine toNat_ofNat_of_lt (k := s.flen.toNat + appendAccepts P w s) ?_
  rw [appendAccepts]
  omega

theorem sameOutside_opFbAppend :
    Claims.sameOutside .fb s.fb (opFbAppend P w s).fb s.flen.toNat (appendAccepts P w s) := by
  intro a ha
  rw [opFbAppend_fb, readByte_writeEntries, take_appendAccepts_length, if_neg (by omega)]

theorem fbBytes_opFbAppend :
    (opFbAppend P w s).fbBytes s.flen.toNat (appendAccepts P w s) = w.take (appendAccepts P w s) := by
  have hwritten := readBytes_writeEntries_same .fb s.fb s.flen.toNat (w.take (appendAccepts P w s))
  rwa [take_appendAccepts_length, ← opFbAppend_fb] at hwritten

end

/-! ### FB_COMPACT (rule R116) -/

section
variable (s : State)

theorem toNat_opFbCompact_flen : (opFbCompact s).flen.toNat = s.avail s.pos.toNat :=
  toNat_ofNat_of_lt ((Nat.sub_le ..).trans_lt s.flen.isLt)

theorem fbBytes_opFbCompact :
    (opFbCompact s).fbBytes 0 (s.avail s.pos.toNat) = s.fbBytes s.pos.toNat (s.avail s.pos.toNat) := by
  have hwritten := readBytes_writeEntries_same .fb s.fb 0 (s.fbBytes s.pos.toNat (s.avail s.pos.toNat))
  rwa [State.fbBytes_length] at hwritten

theorem sameOutside_opFbCompact :
    Claims.sameOutside .fb s.fb (opFbCompact s).fb 0 (s.avail s.pos.toNat) := by
  intro a ha
  change readByte .fb (writeEntries s.fb 0 (s.fbBytes s.pos.toNat (s.avail s.pos.toNat))) a = _
  rw [readByte_writeEntries, State.fbBytes_length, if_neg (by omega)]

end

end Sys2Proof.Machine

namespace Sys2Proof.Claims

open Sys2Proof.Machine

/-! ### The statements on length discovery and the frame buffer (rules R110, R111, R114 to R116) -/

theorem lengthAt_le (s : State) : lengthAt s ≤ 65307 := by
  have hcount := (s.fbByte (s.pos.toNat + 26)).isLt
  have hsum : sumTable (tableAt s) ≤ 65025 := sumTable_fbBytes_le ..
  rw [lengthAt, segCount]
  omega

/-- Everything length discovery can answer at the cursor (rule R110). -/
theorem pageExtent_at_pos_cases (s : State) :
    (s.avail s.pos.toNat < 27 ∧ pageExtent s s.pos.toNat = .needMore 27) ∨
    (27 ≤ s.avail s.pos.toNat ∧ s.avail s.pos.toNat < 27 + segCount s ∧
      pageExtent s s.pos.toNat = .needMore (27 + segCount s)) ∨
    (27 + segCount s ≤ s.avail s.pos.toNat ∧ pageExtent s s.pos.toNat = .length (lengthAt s)) :=
  pageExtent_cases s s.pos.toNat

/-- Settles O16: each case of length discovery, whose answer is at most 65307 and so fits in RES. -/
theorem getLengthAnswersInEveryCase : Obligations.GetLengthAnswersInEveryCase := by
  refine ⟨decode_encode .getLength, fun s herr => ⟨opGetLength s, exec_of_clear herr .getLength, ?_⟩⟩
  have hlength := lengthAt_le s
  have hcount : segCount s ≤ lengthAt s := by
    rw [lengthAt]
    omega
  rcases pageExtent_at_pos_cases s with ⟨hshort, he⟩ | ⟨hheader, hshort, he⟩ | ⟨hroom, he⟩
  · rw [opGetLength_of_needMore he, if_pos hshort]
    exact ⟨rfl, setLenv_openRun .., rfl, setLenv_lenv ..⟩
  · rw [opGetLength_of_needMore he, if_neg (by omega), if_pos hshort]
    exact ⟨rfl, setLenv_openRun .., toNat_ofNat_of_lt (by omega), setLenv_lenv ..⟩
  · rw [opGetLength_of_length he, if_neg (by omega), if_neg (Nat.not_lt.mpr hroom)]
    exact ⟨rfl, setLenv_openRun .., toNat_ofNat_of_lt (by omega), setLenv_lenv ..⟩

/-- Settles O17: FB_APPEND leaves the valid bytes as they are, and length discovery reads no other. -/
theorem discoveredLengthIsStable : Obligations.DiscoveredLengthIsStable := by
  intro s t w p n herr hextent hexec
  cases eq_effect_of_exec herr hexec
  refine pageExtent_of_extends hextent ?_ fun a ha => sameOutside_opFbAppend Config.params w s a (.inl ha)
  rw [effect, toNat_opFbAppend_flen _ _ _ fbSize_bounds.2]
  exact Nat.le_add_right ..

/-- Settles O26: the string that fits is written at FLEN and nothing else is, and neither RES nor FLEN wraps. -/
theorem fbAppendAppendsWhatFits : Obligations.FbAppendAppendsWhatFits := by
  intro w
  refine ⟨decode_encode (.fbAppend w), fun s herr => ⟨opFbAppend Config.params w s,
    exec_of_clear herr (.fbAppend w), rfl, ?_⟩⟩
  have hres : (opFbAppend Config.params w s).res.toNat = appendAccepts Config.params w s :=
    opFbAppend_res fbSize_bounds.2 w s
  rw [hres]
  exact ⟨rfl, toNat_opFbAppend_flen _ _ _ fbSize_bounds.2, fbBytes_opFbAppend ..,
    sameOutside_opFbAppend _ _ _⟩

/-- Settles O27: the bytes from the cursor on are written at index 0, and there are no more of them than FLEN. -/
theorem fbCompactDropsBytesBeforeCursor : Obligations.FbCompactDropsBytesBeforeCursor := by
  refine ⟨decode_encode .fbCompact, fun s herr => ⟨opFbCompact s, exec_of_clear herr .fbCompact, rfl,
    setLenv_lenv .., setLenv_openRun .., ?_⟩⟩
  rw [toNat_opFbCompact_flen]
  exact ⟨rfl, rfl, fbBytes_opFbCompact s, sameOutside_opFbCompact s⟩

/-- Settles O25: FB_RESET's writes are the registers named. -/
theorem fbResetDiscardsTheBuffer : Obligations.FbResetDiscardsTheBuffer :=
  ⟨decode_encode .fbReset, fun s herr => ⟨opFbReset s, exec_of_clear herr .fbReset, rfl, setLenv_lenv ..,
    setLenv_openRun ..⟩⟩

end Sys2Proof.Claims
end

section
/-!
The round trip (rules R112, R113, R120): PARSE lets through exactly the pages that stand whole at the cursor with
their own checksum, loads them field for field, and SERIALIZE emits such a page.
-/

namespace Sys2Proof.Machine

/-! ### Pages whose table accounts for their payload (rules R19, R32) -/

/-- A page that the block can hold: a table of at most 255 entries that sums to its payload. -/
structure Page.Consistent (pg : Page) : Prop where
  table_le : pg.table.length ≤ 255
  sum : sumTable pg.table = pg.payload.length

theorem Page.Consistent.payload_le {pg : Page} (h : pg.Consistent) : pg.payload.length ≤ 65025 := by
  have hsum := sumTable_le pg.table
  have htable := h.table_le
  have := h.sum
  omega

theorem Page.Consistent.length_eq {pg : Page} (h : pg.Consistent) :
    pg.length = 27 + pg.table.length + sumTable pg.table := by
  rw [Page.length, h.sum]

theorem Page.Consistent.length_le {pg : Page} (h : pg.Consistent) : pg.length ≤ 65307 := by
  have htable := h.table_le
  have hpayload := h.payload_le
  rw [Page.length]
  omega

theorem Page.le_length (pg : Page) : 27 ≤ pg.length := by
  rw [Page.length]
  omega

theorem State.page_consistent {s : State} (h : s.PageInvariant) : s.page.Consistent where
  table_le := s.table_length.trans_le (Nat.le_of_lt_succ s.nseg.isLt)
  sum := h.trans s.payload_length.symm

theorem pageAt_consistent (P : Params) (s : State) (p : Nat) (n : Byte) (t : PageType) :
    (pageAt P s p n.toNat t).Consistent := by
  obtain ⟨htable, -, hsum⟩ := pageAt_bounds P s p n t
  exact ⟨htable, hsum.symm⟩

/-! ### The checksum of a page (rules R17, R102) -/

/-- A page carries its own checksum exactly where sealing it changes nothing. -/
theorem Page.sealed_eq_self_iff (P : Params) (pg : Page) :
    pg.sealed P = pg ↔ pg.checksum = crc32 P (pageBytes P pg) :=
  ⟨fun h => (congrArg Page.checksum h).symm, fun h => congrArg (fun c => { pg with checksum := c }) h.symm⟩

theorem Page.sealed_length (P : Params) (pg : Page) : (pg.sealed P).length = pg.length := rfl

theorem Page.Consistent.sealed {pg : Page} (h : pg.Consistent) (P : Params) : (pg.sealed P).Consistent :=
  ⟨h.table_le, h.sum⟩

theorem State.validPage_iff {P : Params} (hmagic : P.magic.length = 4) (s : State) :
    s.ValidPage P ↔ s.PageInvariant ∧ s.page.sealed P = s.page := by
  rw [Page.sealed_eq_self_iff, ← zeroChecksum_pageBytes hmagic s.page]
  exact Iff.rfl

/-! ### What PARSE lets through (rules R62, R112) -/

/-- `fld_bytes_n` inverts `fld_n` in either byte order, on a string of the field's size (rule R36). -/
theorem fldBytes_fld (P : Params) {n : Nat} {bs : List Byte} (hlen : bs.length = n / 8) (hn : n = 8 * (n / 8)) :
    fldBytes P (fld P n bs) = bs :=
  Claims.fld_inj ((fldBytes_length P _).trans hlen.symm) (by rw [fldBytes_length]; omega)
    (fld_fldBytes P (fld P n bs) hn)

theorem State.HoldsPage.of_fb {P : Params} {s t : State} {b : Nat} {pg : Page} (h : s.HoldsPage P b pg)
    (hmagic : P.magic.length = 4) (hfb : t.fb = s.fb) : t.HoldsPage P b pg := by
  rw [State.holdsPage_iff hmagic, State.fbBytes] at h ⊢
  rwa [hfb]

theorem State.HoldsPage.toNat_segCount {P : Params} {s : State} {b : Nat} {pg : Page} (h : s.HoldsPage P b pg)
    (hcon : pg.Consistent) : (s.fbByte (b + 26)).toNat = pg.table.length := by
  rw [h.segCount, toNat_ofNat_of_lt (Nat.lt_succ_of_le hcon.table_le)]

/-- The fields read at an index make up the page that stands there. -/
theorem pageAt_eq_of_holdsPage {P : Params} {s : State} {b : Nat} {pg : Page} (h : s.HoldsPage P b pg)
    (hcon : pg.Consistent) : pageAt P s b (s.fbByte (b + 26)).toNat pg.pageType = pg := by
  simp only [pageAt, h.toNat_segCount hcon, h.table, hcon.sum, h.payload, h.granule, h.streamId, h.packetIndex,
    h.checksum]
  simp only [fld_fldBytes P pg.granule rfl, fld_fldBytes P pg.streamId rfl, fld_fldBytes P pg.packetIndex rfl,
    fld_fldBytes P pg.checksum rfl]

/-- A page with the header of the wire format is the page that stands at its index. -/
theorem holdsPage_pageAt {P : Params} {s : State} {b : Nat} {t : PageType} (hmagic : s.fbBytes b 4 = P.magic)
    (hversion : s.fbByte (b + 4) = 0) (htype : typeDecode P (s.fbByte (b + 5)) = some t) :
    s.HoldsPage P b (pageAt P s b (s.fbByte (b + 26)).toNat t) where
  magic := hmagic
  version := hversion
  typeFlags := (typeCode_of_typeDecode htype).symm
  granule := (fldBytes_fld P (n := 64) (s.fbBytes_length ..) rfl).symm
  streamId := (fldBytes_fld P (n := 32) (s.fbBytes_length ..) rfl).symm
  packetIndex := (fldBytes_fld P (n := 32) (s.fbBytes_length ..) rfl).symm
  checksum := (fldBytes_fld P (n := 32) (s.fbBytes_length ..) rfl).symm
  segCount := by
    change _ = BitVec.ofNat 8 (s.fbBytes (b + 27) (s.fbByte (b + 26)).toNat).length
    rw [State.fbBytes_length, BitVec.ofNat_toNat, BitVec.setWidth_eq]
  table := congrArg (s.fbBytes (b + 27)) (s.fbBytes_length ..)
  payload := by simp [pageAt]

/-- PARSE lets a page through exactly where it stands whole at the cursor with its own checksum (rule R112). -/
theorem parsePage_eq_ok_iff {P : Params} (hP : P.Valid) {s : State} {pg : Page} :
    parsePage P s = .ok pg ↔ s.HoldsPage P s.pos.toNat pg ∧ pg.Consistent ∧
      pg.length ≤ s.avail s.pos.toNat ∧ pg.sealed P = pg := by
  have hfour := hP.1
  constructor
  · intro h
    obtain ⟨hmagic, hversion, ⟨t, htype, rfl⟩, hroom, hcrc⟩ := parsePage_ok h
    have held := holdsPage_pageAt hmagic hversion htype
    refine ⟨held, pageAt_consistent .., hroom, ?_⟩
    rw [Page.sealed_eq_self_iff, ← hcrc, held.pageCrc_eq hfour]
  · rintro ⟨held, hcon, hroom, hsealed⟩
    have htype : typeDecode P (s.fbByte (s.pos.toNat + 5)) = some pg.pageType := by
      rw [held.typeFlags, typeDecode_typeCode hP]
    have hcrc : pageCrc P s.fb s.pos.toNat pg.length = pg.checksum := by
      rw [held.pageCrc_eq hfour, ← (Page.sealed_eq_self_iff P pg).mp hsealed]
    rw [parsePage_of_whole held.magic held.version htype (pageAt_eq_of_holdsPage held hcon).symm hroom,
      if_neg (not_not_intro hcrc)]

/-- Length discovery finds the length of a page that stands whole in the buffer (rule R110). -/
theorem pageExtent_of_holdsPage {P : Params} {s : State} {b : Nat} {pg : Page} (h : s.HoldsPage P b pg)
    (hcon : pg.Consistent) (hroom : pg.length ≤ s.avail b) : pageExtent s b = .length pg.length := by
  have hlength := hcon.length_eq
  rw [pageExtent_eq_length_iff, h.toNat_segCount hcon, h.table]
  exact ⟨by omega, hlength⟩

/-! ### A checked operation that did not raise -/

theorem checked_of_err_zero {α : Type} {check : Except ErrKind α} {commit : α → State → State} {s : State}
    (h : (checked check commit s).err = 0) : ∃ a, check = .ok a ∧ checked check commit s = commit a s := by
  rcases checked_cases check commit s with ⟨k, -, heq⟩ | hok
  · exact absurd ((congrArg State.err heq).symm.trans h) k.code_ne_zero
  · exact hok

/-- A PARSE from ERR 0 that did not raise loaded the page that its checks let through (rule R112). -/
theorem loaded_of_execWith_parse {P : Params} {s t : State} (herr : s.err = 0)
    (hexec : execWith P .parse s = .next t) (ht : t.err = 0) :
    ∃ pg, parsePage P s = .ok pg ∧ t = loadPage pg s := by
  cases (execWith_of_clear P herr .parse).symm.trans hexec
  exact checked_of_err_zero ht

theorem execWith_parse_of_ok {P : Params} {s : State} {pg : Page} (herr : s.err = 0) (h : parsePage P s = .ok pg) :
    execWith P .parse s = .next (loadPage pg s) := by
  rw [execWith_of_clear P herr, effect, opParse, h, checked_ok]

/-- A SERIALIZE from ERR 0 that did not raise emitted the held page (rule R113). -/
theorem emitted_of_execWith_serialize {P : Params} {s t : State} (herr : s.err = 0)
    (hexec : execWith P .serialize s = .next t) (ht : t.err = 0) :
    s.PageInvariant ∧ s.flen.toNat + s.page.length ≤ P.fbSize ∧ t = emitPage P s.page s := by
  cases (execWith_of_clear P herr .serialize).symm.trans hexec
  obtain ⟨pg, hok, heq⟩ := checked_of_err_zero ht
  obtain ⟨hinv, hroom, rfl⟩ := serializeCheck_eq_ok hok
  exact ⟨hinv, s.page_length ▸ hroom, heq⟩

theorem serializeCheck_of_not_pageInvariant {P : Params} {s : State} (hinv : ¬ s.PageInvariant) :
    serializeCheck P s = .error .pageInvariant := by
  rw [serializeCheck, if_pos hinv]

theorem serializeCheck_of_no_room {P : Params} {s : State} (hinv : s.PageInvariant)
    (hroom : P.fbSize < s.flen.toNat + (27 + s.nseg.toNat + s.dlen.toNat)) :
    serializeCheck P s = .error .capacityExceeded := by
  rw [serializeCheck, if_neg (not_not_intro hinv), if_pos hroom]

/-- From ERR 0, SERIALIZE raises the kind that its checks name and changes only ERR (rule R113). -/
theorem exec_serialize_of_error {s : State} {k : ErrKind} (herr : s.err = 0)
    (hcheck : serializeCheck Config.params s = .error k) : exec .serialize s = .next { s with err := k.code } := by
  rw [exec_of_clear herr, effect, opSerialize, hcheck]
  rfl

/-! ### The state after PARSE (rule R112) -/

section
variable {pg : Page} (s : State)

@[simp] theorem loadPage_err : (loadPage pg s).err = s.err := rfl
@[simp] theorem loadPage_fb : (loadPage pg s).fb = s.fb := rfl
@[simp] theorem loadPage_flen : (loadPage pg s).flen = s.flen := rfl

theorem toNat_loadPage_nseg (h : pg.Consistent) : (loadPage pg s).nseg.toNat = pg.table.length :=
  toNat_ofNat_of_lt (Nat.lt_succ_of_le h.table_le)

theorem toNat_loadPage_dlen (h : pg.Consistent) : (loadPage pg s).dlen.toNat = pg.payload.length :=
  toNat_ofNat_of_lt (h.payload_le.trans_lt (by decide))

theorem toNat_loadPage_res (h : pg.Consistent) : (loadPage pg s).res.toNat = pg.length :=
  toNat_ofNat_of_lt (h.length_le.trans_lt (by decide))

theorem loadPage_payload (h : pg.Consistent) : (loadPage pg s).payload = pg.payload := by
  rw [State.payload, toNat_loadPage_dlen s h]
  exact readBytes_writeEntries_same ..

/-- The block holds the page that was loaded, field for field. -/
theorem loadPage_page (h : pg.Consistent) : (loadPage pg s).page = pg := by
  rw [State.page, loadPage_table h.table_le, loadPage_payload s h]
  rfl

/-- The cursor does not wrap on a page wholly in the buffer. -/
theorem toNat_loadPage_pos {s : State} (h : pg.length ≤ s.avail s.pos.toNat) :
    (loadPage pg s).pos.toNat = s.pos.toNat + pg.length := by
  have hlength := pg.le_length
  have hflen := s.flen.isLt
  rw [State.avail] at h
  exact toNat_ofNat_of_lt (k := s.pos.toNat + pg.length) (by omega)

end

/-- A successful PARSE keeps the buffer and moves the cursor on, but not past FLEN (rule R112). -/
theorem execWith_parse_advances {P : Params} {s t : State} (herr : s.err = 0)
    (hexec : execWith P .parse s = .next t) (ht : t.err = 0) :
    t.fb = s.fb ∧ t.flen = s.flen ∧ s.pos.toNat + 27 ≤ t.pos.toNat ∧ t.pos.toNat ≤ t.flen.toNat := by
  obtain ⟨pg, hok, rfl⟩ := loaded_of_execWith_parse herr hexec ht
  obtain ⟨-, -, -, hroom, -⟩ := parsePage_ok hok
  have hlength := pg.le_length
  rw [toNat_loadPage_pos hroom, loadPage_flen]
  rw [State.avail] at hroom
  exact ⟨rfl, rfl, by omega, by omega⟩

/-! ### The state after SERIALIZE (rule R113) -/

section
variable {P : Params} {s : State}

theorem toNat_emitPage_res (h : s.PageInvariant) : (emitPage P s.page s).res.toNat = s.page.length :=
  toNat_ofNat_of_lt ((State.page_consistent h).length_le.trans_lt (by decide))

/-- FLEN does not wrap on a page that fits in the buffer. -/
theorem toNat_emitPage_flen (hsize : P.fbSize ≤ 4294967295) (hroom : s.flen.toNat + s.page.length ≤ P.fbSize) :
    (emitPage P s.page s).flen.toNat = s.flen.toNat + s.page.length :=
  toNat_ofNat_of_lt (k := s.flen.toNat + s.page.length) (by omega)

/-- The block holds the page that it emitted. -/
theorem emitPage_page (hmagic : P.magic.length = 4) : (emitPage P s.page s).page = s.page.sealed P :=
  congrArg (fun c => { s.page with checksum := c }) (emitPage_checksum hmagic s.page s)

/-- SERIALIZE writes the bytes of the page and no other. -/
theorem sameOutside_emitPage (hmagic : P.magic.length = 4) (pg : Page) :
    Claims.sameOutside .fb s.fb (emitPage P pg s).fb s.flen.toNat pg.length := by
  intro a ha
  have hfield : 26 ≤ pg.length := Nat.le_of_succ_le pg.le_length
  rw [emitPage_fb hmagic, readByte_writeEntries, fldBytes_length, if_neg (by omega), readByte_writeEntries,
    pageBytes_length hmagic, if_neg (by omega)]

end

end Sys2Proof.Machine

namespace Sys2Proof.Claims

open Sys2Proof.Machine

/-! ### The statements on the round trip (rules R112, R113, R120) -/

/-- Settles O23: the emitted page stands at the old FLEN with its own checksum, which is all that PARSE asks for. -/
theorem parseInvertsSerialize : Obligations.ParseInvertsSerialize := by
  intro P s t hP herr hexec ht
  have ⟨hmagic, _, _, _, _, hsize, _⟩ := hP
  obtain ⟨hinv, hroom, rfl⟩ := emitted_of_execWith_serialize herr hexec ht
  have hcon := (State.page_consistent hinv).sealed P
  have held := emitPage_holdsPage hmagic s.page s
  have hflen := toNat_emitPage_flen hsize hroom
  have havail : (s.page.sealed P).length ≤ (emitPage P s.page s).avail s.flen.toNat := by
    rw [State.avail, hflen]
    exact (Nat.add_sub_cancel_left ..).ge
  refine ⟨?_, rfl, fun hvalid => ?_, ?_⟩
  · rw [toNat_emitPage_res hinv, ← Page.sealed_length P]
    exact pageExtent_of_holdsPage held hcon havail
  · rw [emitPage_page hmagic, ((State.validPage_iff hmagic s).mp hvalid).2]
  · have hpos : (s.flen.setWidth 64).setWidth 32 = s.flen := by
      rw [BitVec.setWidth_setWidth_of_le _ (by decide), BitVec.setWidth_eq]
    rw [writeReg_pos_of_le (by rw [hpos, hflen]; exact Nat.le_add_right ..), hpos]
    have hok : parsePage P { emitPage P s.page s with pos := s.flen } = .ok (s.page.sealed P) :=
      (parsePage_eq_ok_iff hP).mpr ⟨held.of_fb hmagic rfl, hcon, havail, rfl⟩
    refine ⟨_, execWith_parse_of_ok herr hok, herr, ?_, BitVec.eq_of_toNat_eq ?_⟩
    · rw [loadPage_page _ hcon, emitPage_page hmagic]
    · rw [toNat_loadPage_pos havail, hflen]
      rfl

/-- Settles O24: the block holds the parsed page, whose checksum is its own, so that SERIALIZE emits its bytes. -/
theorem serializeInvertsParse : Obligations.SerializeInvertsParse := by
  intro P s t hP herr hexec ht hroom
  have hmagic := hP.1
  obtain ⟨pg, hok, rfl⟩ := loaded_of_execWith_parse herr hexec ht
  obtain ⟨held, hcon, -, hsealed⟩ := (parsePage_eq_ok_iff hP).mp hok
  have hpage := loadPage_page s hcon
  rw [toNat_loadPage_res s hcon] at hroom ⊢
  refine ⟨_, execWith_serialize_of_room herr (loadPage_pageInvariant hok) ?_, herr, ?_, ?_⟩
  · rwa [← State.page_length, hpage]
  · rw [emitPage_res, hpage]
    rfl
  · have emitted := emitPage_holdsPage hmagic (loadPage pg s).page (loadPage pg s)
    rw [hpage, hsealed] at emitted
    rw [hpage, (State.holdsPage_iff hmagic ..).mp held]
    exact (State.holdsPage_iff hmagic ..).mp emitted

/-- Settles O20: the page held is the one that PARSE let through. -/
theorem parsedPageIsValid : Obligations.ParsedPageIsValid := by
  intro P s t hP herr hexec ht
  obtain ⟨pg, hok, rfl⟩ := loaded_of_execWith_parse herr hexec ht
  obtain ⟨-, hcon, -, hsealed⟩ := (parsePage_eq_ok_iff hP).mp hok
  rw [State.validPage_iff hP.1, loadPage_page s hcon]
  exact ⟨loadPage_pageInvariant hok, hsealed⟩

/-- Settles O21: a page has at least 27 bytes, and the one loaded is wholly in the buffer. -/
theorem successfulParseAdvances : Obligations.SuccessfulParseAdvances := by
  intro s t herr hexec ht
  rw [← execWith_params] at hexec
  obtain ⟨-, -, hadvance, hwithin⟩ := execWith_parse_advances herr hexec ht
  exact ⟨hadvance, hwithin⟩

/-- Settles O22: the emitted page stands at the old FLEN field by field, and each check raises its own kind. -/
theorem serializeAppendsTheWireFormat : Obligations.SerializeAppendsTheWireFormat := by
  refine ⟨decode_encode .serialize, fun s herr => ⟨fun hinv hroom => ?_, fun hinv => ?_, fun hinv hroom => ?_⟩⟩
  · have hmagic : Config.params.magic.length = 4 := rfl
    have held := emitPage_holdsPage hmagic s.page s
    have hres := toNat_emitPage_res (P := Config.params) hinv
    have hflen := toNat_emitPage_flen (P := Config.params) fbSize_bounds.2 (s.page_length ▸ hroom)
    have hsum := emitPage_checksum hmagic s.page s
    refine ⟨emitPage Config.params s.page s, ?_, rfl, ?_⟩
    · rw [← execWith_params]
      exact execWith_serialize_of_room herr hinv hroom
    rw [hres, hsum]
    refine ⟨s.page_length, hflen, held.magic, held.version, held.typeFlags.trans (typeCode_params _), ?_, ?_, ?_, ?_,
      ?_, ?_, ?_, (held.pageCrc_eq hmagic).symm, sameOutside_emitPage hmagic s.page⟩
    · exact held.granule ▸ fieldValue_fldBytes Config.params s.granule rfl
    · exact held.streamId ▸ fieldValue_fldBytes Config.params s.streamId rfl
    · exact held.packetIndex ▸ fieldValue_fldBytes Config.params s.packetIndex rfl
    · exact held.checksum ▸ fieldValue_fldBytes Config.params _ rfl
    · rw [held.segCount]
      change BitVec.ofNat 8 s.table.length = _
      rw [State.table_length, BitVec.ofNat_toNat, BitVec.setWidth_eq]
    · have htable := held.table
      rwa [show (s.page.sealed Config.params).table = s.table from rfl, State.table_length] at htable
    · have hpayload := held.payload
      rwa [show (s.page.sealed Config.params).table = s.table from rfl,
        show (s.page.sealed Config.params).payload = s.payload from rfl, State.table_length,
        State.payload_length] at hpayload
  · exact exec_serialize_of_error herr (serializeCheck_of_not_pageInvariant hinv)
  · exact exec_serialize_of_error herr (serializeCheck_of_no_room hinv hroom)

end Sys2Proof.Claims
end

section
/-!
The statements on PARSE (rules R112, R166), PARSE_ALL (rule R117) and INTO_BYTES (rule R118): the checks in their
order, the loop over the pages of the buffer, and the page kept where SERIALIZE raises.
-/

namespace Sys2Proof.Machine

/-! ### The checks of PARSE that find too few bytes (rule R112) -/

theorem parsePage_of_no_header {P : Params} {s : State} (hshort : s.avail s.pos.toNat < 27) :
    parsePage P s = .error .truncated := by
  simp only [parsePage]
  rw [if_pos hshort]

/-- A page whose header passes its checks and that is not wholly in the buffer is truncated. -/
theorem parsePage_of_not_whole {P : Params} {s : State} {t : PageType} (hheader : 27 ≤ s.avail s.pos.toNat)
    (hmagic : s.fbBytes s.pos.toNat 4 = P.magic) (hversion : s.fbByte (s.pos.toNat + 4) = 0)
    (htype : typeDecode P (s.fbByte (s.pos.toNat + 5)) = some t)
    (hshort : s.avail s.pos.toNat < (pageAt P s s.pos.toNat (s.fbByte (s.pos.toNat + 26)).toNat t).length) :
    parsePage P s = .error .truncated := by
  rw [pageAt_length] at hshort
  simp only [parsePage, htype]
  rw [if_neg (Nat.not_lt.mpr hheader), if_neg (not_not_intro hmagic), if_neg (not_not_intro hversion)]
  by_cases htable : s.avail s.pos.toNat < 27 + (s.fbByte (s.pos.toNat + 26)).toNat
  · rw [if_pos htable]
  · rw [if_neg htable, if_pos (by exact hshort)]

/-- A checked operation whose commit keeps ERR at 0 raised where ERR is not 0 after it. -/
theorem raised_of_checked {α : Type} {check : Except ErrKind α} {commit : α → State → State} {s : State}
    (hcommit : ∀ a, (commit a s).err = 0) (h : (checked check commit s).err ≠ 0) :
    ∃ k, checked check commit s = raise k s := by
  rcases checked_cases check commit s with ⟨k, -, heq⟩ | ⟨a, -, heq⟩
  · exact ⟨k, heq⟩
  · exact absurd (heq ▸ hcommit a) h

theorem sameOutside_loadPage_segtab (pg : Page) (s : State) :
    Claims.sameOutside .segtab s.segtab (loadPage pg s).segtab 0 pg.table.length := by
  intro a ha
  change readByte .segtab (writeEntries s.segtab 0 pg.table) a = _
  rw [readByte_writeEntries, if_neg (by omega)]

theorem sameOutside_loadPage_data (pg : Page) (s : State) :
    Claims.sameOutside .data s.data (loadPage pg s).data 0 pg.payload.length := by
  intro a ha
  change readByte .data (writeEntries s.data 0 pg.payload) a = _
  rw [readByte_writeEntries, if_neg (by omega)]

end Sys2Proof.Machine

namespace Sys2Proof.Claims

open Sys2Proof.Machine

/-! ### PARSE's checks in their order (rules R112, R166) -/

theorem typeDecode_params_eq_none_iff (b : Byte) :
    typeDecode Config.params b = none ↔ b ≠ 0x01#8 ∧ b ≠ 0x02#8 ∧ b ≠ 0x04#8 := by
  have hcodes : typeDecode Config.params b = if b = 0x01#8 then some .continuation
      else if b = 0x02#8 then some .beginOfStream else if b = 0x04#8 then some .endOfStream else none := rfl
  rw [hcodes]
  grind

/-- The header of the page at the cursor passes the checks 2 to 4 under the default parameters. -/
def headerOk (s : State) : Prop :=
  s.fbBytes s.pos.toNat 4 = Config.params.magic ∧ s.fbByte (s.pos.toNat + 4) = 0 ∧
    typeDecode Config.params (s.fbByte (s.pos.toNat + 5)) ≠ none

theorem parseError_of_not_headerOk {s : State} (hroom : 27 ≤ s.avail s.pos.toNat) (h : ¬ headerOk s) :
    parseError s = some 1 := by
  simp only [parseError]
  rw [if_neg (Nat.not_lt.mpr hroom)]
  by_cases hmagic : s.fbBytes s.pos.toNat 4 = [0x4F#8, 0x67#8, 0x67#8, 0x53#8]
  · by_cases hversion : s.fbByte (s.pos.toNat + 4) = 0
    · have htype : typeDecode Config.params (s.fbByte (s.pos.toNat + 5)) = none :=
        not_not.mp fun hne => h ⟨hmagic, hversion, hne⟩
      rw [if_neg (not_not_intro hmagic), if_neg (not_not_intro hversion),
        if_pos ((typeDecode_params_eq_none_iff _).mp htype)]
    · rw [if_neg (not_not_intro hmagic), if_pos hversion]
  · rw [if_pos hmagic]

/-- After the header, what is left to fail is the size of the page, then its checksum. -/
theorem parseError_of_headerOk {s : State} (hroom : 27 ≤ s.avail s.pos.toNat) (h : headerOk s) :
    parseError s = if s.avail s.pos.toNat < lengthAt s then some 3
      else if (computedAt s).toNat ≠ storedAt s then some 2 else none := by
  obtain ⟨hmagic, hversion, htype⟩ := h
  rw [ne_eq, typeDecode_params_eq_none_iff] at htype
  simp only [parseError]
  rw [if_neg (Nat.not_lt.mpr hroom), if_neg (by exact not_not_intro hmagic), if_neg (not_not_intro hversion),
    if_neg htype]

/-- The independent reading of the checks names the kind that PARSE's checks find, or none where they find none. -/
theorem parsePage_parseError_cases (s : State) :
    (∃ k, parsePage Config.params s = .error k ∧ parseError s = some k.code) ∨
      ∃ pg, parsePage Config.params s = .ok pg ∧ parseError s = none := by
  by_cases hshort : s.avail s.pos.toNat < 27
  · exact .inl ⟨_, parsePage_of_no_header hshort, if_pos hshort⟩
  have hroom := Nat.not_lt.mp hshort
  by_cases hheader : headerOk s
  · rw [parseError_of_headerOk hroom hheader]
    obtain ⟨hmagic, hversion, htype⟩ := hheader
    obtain ⟨t, ht⟩ := Option.ne_none_iff_exists'.mp htype
    obtain ⟨pg, hpage⟩ : ∃ pg, pg = pageAt Config.params s s.pos.toNat (segCount s) t := ⟨_, rfl⟩
    have hlength : pg.length = lengthAt s := hpage ▸ pageAt_length ..
    by_cases hwhole : s.avail s.pos.toNat < lengthAt s
    · rw [if_pos hwhole]
      exact .inl ⟨_, parsePage_of_not_whole hroom hmagic hversion ht (hpage ▸ hlength ▸ hwhole), rfl⟩
    have hparse := parsePage_of_whole hmagic hversion ht hpage (by omega)
    have hstored : pg.checksum.toNat = storedAt s := hpage ▸ toNat_fld Config.params (by simp)
    rw [if_neg hwhole, ← hstored]
    rw [hlength, show pageCrc Config.params s.fb s.pos.toNat (lengthAt s) = computedAt s from rfl] at hparse
    by_cases hcrc : computedAt s = pg.checksum
    · exact .inr ⟨pg, hparse.trans (if_neg (not_not_intro hcrc)),
        if_neg (not_not_intro (congrArg BitVec.toNat hcrc))⟩
    · exact .inl ⟨_, hparse.trans (if_pos hcrc), if_pos (mt BitVec.eq_of_toNat_eq hcrc)⟩
  · have hbad : s.fbBytes s.pos.toNat 4 ≠ Config.params.magic ∨ s.fbByte (s.pos.toNat + 4) ≠ 0 ∨
        typeDecode Config.params (s.fbByte (s.pos.toNat + 5)) = none := by
      rw [headerOk] at hheader
      tauto
    exact .inl ⟨_, parsePage_malformed hroom hbad, parseError_of_not_headerOk hroom hheader⟩

/-- Settles O18: the two readings of the checks agree, and the page loaded is made of the bytes at the cursor. -/
theorem parseChecksThenLoads : Obligations.ParseChecksThenLoads := by
  refine ⟨decode_encode .parse, fun s herr => ?_⟩
  rcases parsePage_parseError_cases s with ⟨k, hcheck, hkind⟩ | ⟨pg, hok, hnone⟩
  · rw [hkind]
    refine ⟨fun c hc => ?_, nofun⟩
    cases hc
    exact exec_parse_of_error herr hcheck
  rw [hnone]
  refine ⟨nofun, fun _ => ⟨loadPage pg s, ?_, rfl, dropSubSegs_openRun _, dropSubSegs_lenv _, ?_⟩⟩
  · rw [← execWith_params]
    exact execWith_parse_of_ok herr hok
  obtain ⟨-, -, ⟨t, htype, hpage⟩, hroom, -⟩ := parsePage_ok hok
  have hcon : pg.Consistent := hpage ▸ pageAt_consistent ..
  have hlength : pg.length = lengthAt s := by
    rw [hpage, pageAt_length]
    rfl
  have hdlen : pg.payload.length = sumTable (tableAt s) := by
    rw [← hcon.sum, hpage]
    rfl
  rw [loadPage_table hcon.table_le, loadPage_payload s hcon, toNat_loadPage_nseg s hcon, toNat_loadPage_dlen s hcon,
    toNat_loadPage_res s hcon, toNat_loadPage_pos hroom, ← hlength, ← hdlen]
  subst hpage
  have field : ∀ a n, (fld Config.params (8 * n) (s.fbBytes a n)).toNat = littleEndian (s.fbBytes a n) :=
    fun a n => toNat_fld Config.params (by rw [State.fbBytes_length])
  exact ⟨(typeCode_params t).symm.trans (typeCode_of_typeDecode htype), field _ 8, field _ 4, field _ 4, field _ 4,
    rfl, rfl, congrArg (s.fbBytes _) hdlen.symm, rfl, rfl, sameOutside_loadPage_segtab _ s,
    sameOutside_loadPage_data _ s⟩

/-! ### PARSE_ALL (rule R117) -/

/-- How the loop of PARSE_ALL from `s`, with the pages `acc` read out, ends in `t`: with every page up to the clean
end, or with the pages before the PARSE that raised. -/
def LoopEnds (P : Params) (acc : List Page) (s t : State) : ParseAllResult → Prop
  | .pages l => ∃ l', l = acc ++ l' ∧ parsesTo P s l' t ∧ t.pos = t.flen ∧ t.err = 0 ∧ t.fb = s.fb
  | .failed k l => k ≠ 0 ∧ t.err = k ∧ t.pos.toNat < t.flen.toNat ∧
      ∃ l' u, l = acc ++ l' ∧ parsesTo P s l' u ∧ execWith P .parse u = .next t

/-- A successful PARSE before the loop puts its page before the loop's own. -/
theorem LoopEnds.cons {P : Params} {acc : List Page} {s s' t : State} {r : ParseAllResult}
    (hmore : s.pos.toNat < s.flen.toNat) (hexec : execWith P .parse s = .next s') (hclear : s'.err = 0)
    (hfb : s'.fb = s.fb) (h : LoopEnds P (acc ++ [s'.page]) s' t r) : LoopEnds P acc s t r := by
  cases r with
  | pages l =>
    obtain ⟨l', rfl, hparses, hpos, herr, hsame⟩ := h
    exact ⟨s'.page :: l', List.append_assoc .., ⟨hmore, s', hexec, hclear, rfl, hparses⟩, hpos,
      herr, hsame.trans hfb⟩
  | failed k l =>
    obtain ⟨hk, herr, hpos, l', u, rfl, hparses, hraise⟩ := h
    exact ⟨hk, herr, hpos, s'.page :: l', u, List.append_assoc ..,
      ⟨hmore, s', hexec, hclear, rfl, hparses⟩, hraise⟩

/-- Every pass of the loop moves the cursor on, so that it reaches FLEN or raises within as many passes as there are
bytes. -/
theorem parseLoop_ends {P : Params} {n : Nat} {acc : List Page} {s t : State} {r : ParseAllResult} (herr : s.err = 0)
    (hpos : s.pos.toNat ≤ s.flen.toNat) (hfuel : s.avail s.pos.toNat ≤ n) (h : parseLoop P n acc s = (t, r)) :
    LoopEnds P acc s t r := by
  induction n generalizing acc s with
  | zero =>
    cases h
    rw [State.avail] at hfuel
    exact ⟨[], (List.append_nil acc).symm, rfl, BitVec.eq_of_toNat_eq (by omega), herr, rfl⟩
  | succ n ih =>
    rw [parseLoop] at h
    by_cases hmore : s.pos.toNat < s.flen.toNat
    · have hexec := execWith_of_clear P herr .parse
      rw [if_pos hmore, runWith_of_clear P herr] at h
      by_cases hclear : (effect P .parse s).err = 0
      · obtain ⟨hfb, hflen, hadvance, hwithin⟩ := execWith_parse_advances herr hexec hclear
        refine .cons hmore hexec hclear hfb (ih hclear hwithin ?_ ((if_neg (not_not_intro hclear)).symm.trans h))
        rw [State.avail] at hfuel ⊢
        rw [hflen]
        omega
      · cases (if_pos hclear).symm.trans h
        obtain ⟨k, hraise⟩ := raised_of_checked (check := parsePage P s) (commit := loadPage) (fun _ => herr) hclear
        refine ⟨hclear, rfl, ?_, [], s, (List.append_nil acc).symm, rfl, hexec⟩
        rw [effect, opParse, hraise]
        exact hmore
    · cases (if_neg hmore).symm.trans h
      exact ⟨[], (List.append_nil acc).symm, rfl, BitVec.eq_of_toNat_eq (by omega), herr, rfl⟩

/-- Settles O53: the loop starts with no page and with as many passes as there are bytes. -/
theorem parseAllStopsAtTheCleanEnd : Obligations.ParseAllStopsAtTheCleanEnd := by
  intro P s t _ herr hpos
  refine ⟨fun l h => ?_, fun k l h => ?_⟩
  · obtain ⟨l', rfl, hends⟩ := parseLoop_ends herr hpos (Nat.le_refl _) h
    exact hends
  · obtain ⟨hk, hcode, hbefore, l', u, rfl, hparses, hraise⟩ := parseLoop_ends herr hpos (Nat.le_refl _) h
    exact ⟨hk, hcode, hbefore, u, hparses, hraise⟩

/-! ### INTO_BYTES (rule R118) -/

/-- Settles O52: NEW runs after a SERIALIZE that did not raise, and is ignored after one that did. -/
theorem intoBytesConsumesThePage : Obligations.IntoBytesConsumesThePage := by
  intro P s t herr hexec
  have hinto : intoBytes P s = runWith P .new t := by rw [intoBytes, runWith, runWith, hexec]; rfl
  rw [hinto]
  refine ⟨fun ht => ?_, fun ht => ?_⟩
  · rw [runWith_of_clear P ht]
    exact ⟨rfl, rfl, rfl, ht⟩
  · have hignored : runWith P .new t = t := by
      rw [runWith, show execWith P .new t = .next t from gated_of_error ht, settle_next]
    cases (execWith_of_clear P herr .serialize).symm.trans hexec
    obtain ⟨k, hraise⟩ := raised_of_checked (check := serializeCheck P s) (commit := emitPage P) (fun _ => herr) ht
    rw [hignored, effect, opSerialize, hraise]
    exact ⟨rfl, rfl⟩

end Sys2Proof.Claims
end

section
/-!
The Stream Reader (rules R130 to R138): what `get_packet` does where a whole page is buffered, where the source is
exhausted and where it gives a chunk; then a page that arrives in chunks, which is whole in the buffer with its last
chunk and not before.
-/

namespace Sys2Proof.Machine

/-! ### `get_packet`, one rule per case (rules R133, R134) -/

section
variable (P : Params) {r : Reader}

/-- A reader that has not failed or ended and has nothing to submit again goes straight to the loop. -/
theorem Reader.getPacket_eq_fetch (src : List SourceAnswer) (hfailed : r.failed = false) (herr : r.block.err = 0)
    (hinput : r.endOfInput = false) (hpending : r.pending = []) : r.getPacket P src = r.fetch P src := by
  simp [Reader.getPacket, hfailed, herr, hinput, hpending]

theorem Reader.getPacket_of_endOfInput (src : List SourceAnswer) (hfailed : r.failed = false)
    (herr : r.block.err = 0) (hinput : r.endOfInput = true) : r.getPacket P src = (.noPacketCleanEnd, r, src) := by
  simp [Reader.getPacket, hfailed, herr, hinput]

/-- A buffered page is delivered without a read of the source. -/
theorem Reader.fetch_of_whole (src : List SourceAnswer) (h : (r.askLength P).whole = true) :
    r.fetch P src = (((r.askLength P).deliver P).1, ((r.askLength P).deliver P).2, src) := by
  cases src with
  | nil => exact if_pos h
  | cons a rest => exact if_pos h

theorem Reader.fetch_nil_of_not_whole (h : ¬ (r.askLength P).whole = true) :
    r.fetch P [] = ((r.askLength P).exhausted.1, (r.askLength P).exhausted.2, []) := by
  exact if_neg h

/-- A chunk is appended, and the loop goes on. -/
theorem Reader.fetch_bytes_of_not_whole {chunk : List Byte} (rest : List SourceAnswer)
    (h : ¬ (r.askLength P).whole = true) (hpending : r.pending = []) (hchunk : chunk ≠ []) :
    r.fetch P (.bytes chunk :: rest) = ((r.askLength P).append P chunk).fetch P rest := by
  simp only [Reader.fetch]
  rw [if_neg h, if_neg hchunk, if_pos (show (r.askLength P).pending = [] from hpending)]

theorem Reader.askLength_block (herr : r.block.err = 0) : (r.askLength P).block = opGetLength r.block :=
  runWith_of_clear P herr .getLength

end

theorem Reader.exhausted_of_empty {r : Reader} (h : r.block.flen.toNat ≤ r.block.pos.toNat) :
    r.exhausted = (.noPacketCleanEnd, { r with endOfInput := true }) :=
  if_pos (Nat.sub_eq_zero_of_le h)

theorem Reader.exhausted_of_residual {r : Reader} (h : r.block.pos.toNat < r.block.flen.toNat) :
    r.exhausted = (.failed 3, { r with failed := true }) :=
  if_neg (Nat.sub_ne_zero_of_lt h)

/-! ### A frame buffer that holds one string (rules R30, R110 to R116) -/

/-- From ERR 0 and with the cursor at 0, the frame buffer holds the string and nothing else. -/
structure State.Buffers (s : State) (bs : List Byte) : Prop where
  err : s.err = 0
  pos : s.pos = 0
  flen : s.flen.toNat = bs.length
  bytes : s.fbBytes 0 bs.length = bs

theorem State.buffers_reset : State.reset.Buffers [] := ⟨rfl, rfl, rfl, rfl⟩

section
variable {P : Params} {s : State} {bs : List Byte} {pg : Page}

theorem State.Buffers.avail_eq (h : s.Buffers bs) : s.avail s.pos.toNat = bs.length := by
  rw [State.avail, h.pos, h.flen]
  rfl

theorem State.Buffers.opGetLength (h : s.Buffers bs) : (opGetLength s).Buffers bs := by
  obtain ⟨b, r, heq⟩ := opGetLength_cases s
  rw [heq]
  exact ⟨h.err, h.pos, h.flen, h.bytes⟩

section
variable {w : List Byte} (hroom : bs.length + w.length ≤ P.fbSize)
include hroom

/-- A string that fits in the buffer is accepted whole. -/
theorem State.Buffers.appendAccepts_eq (h : s.Buffers bs) : appendAccepts P w s = w.length := by
  rw [appendAccepts, h.flen]
  omega

theorem State.Buffers.opFbAppend (h : s.Buffers bs) (hsize : P.fbSize ≤ 4294967295) :
    (opFbAppend P w s).Buffers (bs ++ w) := by
  have haccepts := h.appendAccepts_eq hroom
  have hold : (Machine.opFbAppend P w s).fbBytes 0 bs.length = bs :=
    (readBytes_congr fun i hi => sameOutside_opFbAppend P w s (0 + i) (.inl (by rw [h.flen]; omega))).trans h.bytes
  have hnew := fbBytes_opFbAppend P w s
  rw [haccepts, h.flen, List.take_length] at hnew
  refine ⟨h.err, h.pos, ?_, (readBytes_eq_append_iff ..).mpr ⟨hold, by rw [Nat.zero_add]; exact hnew⟩⟩
  rw [toNat_opFbAppend_flen P w s hsize, haccepts, h.flen, List.length_append]

end

/-- A buffer that holds a page's bytes holds the page. -/
theorem State.Buffers.holdsPage (h : s.Buffers (wireBytes P pg)) (hmagic : P.magic.length = 4) :
    s.HoldsPage P 0 pg := by
  have hbytes := h.bytes
  rw [wireBytes_length hmagic] at hbytes
  exact (State.holdsPage_iff hmagic s 0 pg).mpr hbytes

/-- PARSE lets through a page whose bytes are the buffer's, if it carries its own checksum. -/
theorem State.Buffers.parsePage_eq (h : s.Buffers (wireBytes P pg)) (hP : P.Valid) (hcon : pg.Consistent)
    (hsealed : pg.sealed P = pg) : parsePage P s = .ok pg := by
  refine (parsePage_eq_ok_iff hP).mpr ⟨?_, hcon, ?_, hsealed⟩
  · rw [h.pos]
    exact h.holdsPage hP.1
  · rw [h.avail_eq, wireBytes_length hP.1]

/-- Once the page is parsed and its bytes are dropped, nothing is left. -/
theorem State.Buffers.opFbCompact_loadPage (h : s.Buffers (wireBytes P pg)) (hmagic : P.magic.length = 4) :
    (opFbCompact (loadPage pg s)).Buffers [] := by
  have hlength : s.avail s.pos.toNat = pg.length := h.avail_eq.trans (wireBytes_length hmagic pg)
  refine ⟨h.err, rfl, ?_, rfl⟩
  rw [toNat_opFbCompact_flen, State.avail, loadPage_flen, toNat_loadPage_pos hlength.ge, ← hlength, State.avail,
    List.length_nil]
  omega

end

end Sys2Proof.Machine

namespace Sys2Proof.Claims

open Sys2Proof.Machine

/-! ### When a whole page is buffered (rules R110, R111, R133) -/

/-- GET_LENGTH tells the reader whether the page at the cursor is wholly in the buffer. -/
theorem whole_askLength_iff (P : Params) {r : Reader} (herr : r.block.err = 0) :
    (r.askLength P).whole = true ↔ wholeAt r.block := by
  rw [Reader.whole, Reader.askLength_block P herr, Bool.and_eq_true, decide_eq_true_eq, wholeAt]
  have hlength : segCount r.block + 27 ≤ lengthAt r.block := by
    rw [lengthAt]
    omega
  rcases pageExtent_at_pos_cases r.block with ⟨hshort, he⟩ | ⟨-, hshort, he⟩ | ⟨hroom, he⟩
  · rw [opGetLength_of_needMore he, setLenv_lenv]
    exact iff_of_false (fun h => Bool.false_ne_true h.1) fun h => by omega
  · rw [opGetLength_of_needMore he, setLenv_lenv]
    exact iff_of_false (fun h => Bool.false_ne_true h.1) fun h => by omega
  · have hres : (BitVec.ofNat 32 (lengthAt r.block)).toNat = lengthAt r.block :=
      toNat_ofNat_of_lt ((lengthAt_le r.block).trans_lt (by decide))
    rw [opGetLength_of_length he, setLenv_lenv, setLenv_res, hres]
    exact ⟨fun h => ⟨by omega, h.2⟩, fun h => ⟨rfl, h.2⟩⟩

theorem wholeAt_of_buffers {P : Params} {s : State} {pg : Page} (h : s.Buffers (wireBytes P pg))
    (hmagic : P.magic.length = 4) (hcon : pg.Consistent) : wholeAt s := by
  have havail := h.avail_eq.trans (wireBytes_length hmagic pg)
  have held : s.HoldsPage P s.pos.toNat pg := by
    rw [h.pos]
    exact h.holdsPage hmagic
  have hextent := pageExtent_of_holdsPage held hcon havail.ge
  rw [wholeAt, ← lengthAt_of_pageExtent hextent, havail]
  exact ⟨pg.le_length, Nat.le_refl _⟩

/-- A part of a page is not taken for a whole one: a length that is known from a part is known from the page, and is
the page's own (rule R138). -/
theorem not_wholeAt_of_buffers {P : Params} {s : State} {pg : Page} {bs rest : List Byte} (h : s.Buffers bs)
    (hP : P.Valid) (hcon : pg.Consistent) (hbytes : bs ++ rest = wireBytes P pg) (hrest : rest ≠ []) :
    ¬ wholeAt s := by
  intro hwhole
  obtain ⟨hmagic, -, -, -, hpage, hsize, -⟩ := hP
  have hlength : bs.length + rest.length = pg.length := by
    rw [← List.length_append, hbytes, wireBytes_length hmagic]
  have hroom : bs.length + rest.length ≤ P.fbSize := hlength ▸ hcon.length_le.trans hpage
  have hall : (opFbAppend P rest s).Buffers (wireBytes P pg) := hbytes ▸ h.opFbAppend hroom hsize
  have hextent := pageExtent_of_holdsPage (hall.holdsPage hmagic) hcon
    (by rw [← wireBytes_length hmagic, State.avail, hall.flen]; exact Nat.le_refl _)
  have hknown := (wholePage_ok (wholePage_of_wholeAt hwhole)).1
  rw [h.pos] at hknown
  have hstays := pageExtent_of_extends (t := opFbAppend P rest s) hknown
    (by rw [hall.flen, h.flen, ← hbytes, List.length_append]; exact Nat.le_add_right ..)
    fun a ha => sameOutside_opFbAppend P rest s a (.inl ha)
  have hsame : pg.length = lengthAt s := Extent.length.inj (hextent.symm.trans hstays)
  have hfits := hwhole.2
  have := List.length_pos_of_ne_nil hrest
  rw [h.avail_eq] at hfits
  omega

end Sys2Proof.Claims

namespace Sys2Proof.Machine

/-! ### A page that arrives in chunks (rules R133, R138) -/

/-- The reader after it has returned a page, with its block's buffer in `b`. -/
def Reader.afterPage (pg : Page) (b : State) (r : Reader) : Reader :=
  { r with
    block := b
    streamId := some pg.streamId
    endOfStream := r.endOfStream || decide (pg.pageType = .endOfStream)
    pending := [] }

section
variable {P : Params} {r : Reader}

@[simp] theorem Reader.afterPage_askLength (pg : Page) (b : State) :
    (r.askLength P).afterPage pg b = r.afterPage pg b := rfl

@[simp] theorem Reader.afterPage_append (pg : Page) (b : State) (w : List Byte) :
    (r.append P w).afterPage pg b = r.afterPage pg b := rfl

/-- A page that PARSE lets through is returned, and its bytes are dropped. -/
theorem Reader.deliver_of_parsePage {pg : Page} (herr : r.block.err = 0) (hpending : r.pending = [])
    (hparse : parsePage P r.block = .ok pg) (hcon : pg.Consistent) :
    r.deliver P = (.page pg, r.afterPage pg (opFbCompact (loadPage pg r.block))) := by
  have hload : runWith P .parse r.block = loadPage pg r.block := by
    rw [runWith, execWith_parse_of_ok herr hparse, settle_next]
  have hclear : (loadPage pg r.block).err = 0 := herr
  simp only [Reader.deliver, hload]
  rw [if_neg (not_not_intro hclear), runWith_of_clear P hclear, loadPage_page r.block hcon, hpending]
  rfl

/-- A chunk that fits leaves nothing to submit again. -/
theorem Reader.append_of_room {bs w : List Byte} (h : r.block.Buffers bs) (hroom : bs.length + w.length ≤ P.fbSize)
    (hsize : P.fbSize ≤ 4294967295) : r.append P w = { r with block := opFbAppend P w r.block, pending := [] } := by
  have hres : (opFbAppend P w r.block).res.toNat = w.length :=
    (opFbAppend_res hsize w r.block).trans (h.appendAccepts_eq hroom)
  rw [Reader.append, runWith_of_clear P h.err, effect, hres, List.drop_length]

/-- However the rest of a page is cut, the reader takes every chunk of it and returns the page. -/
theorem Reader.fetch_chunks {pg : Page} (hP : P.Valid) (hcon : pg.Consistent) (hsealed : pg.sealed P = pg)
    {chunks : List (List Byte)} {bs : List Byte} (hne : ∀ c ∈ chunks, c ≠ []) (h : r.block.Buffers bs)
    (hpending : r.pending = []) (hbytes : bs ++ chunks.flatten = wireBytes P pg) :
    ∃ b, b.Buffers [] ∧ r.fetch P (chunks.map .bytes) = (.page pg, r.afterPage pg b, []) := by
  have ⟨hmagic, _, _, _, hpage, hsize, _⟩ := hP
  have hask : (r.askLength P).block.Buffers bs := Reader.askLength_block P h.err ▸ h.opGetLength
  induction chunks generalizing r bs with
  | nil =>
    rw [List.flatten_nil, List.append_nil] at hbytes
    subst hbytes
    have hwhole := (Claims.whole_askLength_iff P h.err).mpr (Claims.wholeAt_of_buffers h hmagic hcon)
    refine ⟨_, hask.opFbCompact_loadPage hmagic, ?_⟩
    rw [List.map_nil, Reader.fetch_of_whole P [] hwhole, Reader.deliver_of_parsePage hask.err hpending
      (hask.parsePage_eq hP hcon hsealed) hcon, Reader.afterPage_askLength]
  | cons c chunks ih =>
    have hchunk : c ≠ [] := hne c List.mem_cons_self
    rw [List.flatten_cons, ← List.append_assoc] at hbytes
    have hpart : ¬ (r.askLength P).whole = true := by
      rw [Claims.whole_askLength_iff P h.err]
      rw [List.append_assoc] at hbytes
      exact Claims.not_wholeAt_of_buffers h hP hcon hbytes (List.append_ne_nil_of_left_ne_nil hchunk _)
    have hroom : bs.length + c.length ≤ P.fbSize := by
      have hlength := congrArg List.length hbytes
      have := hcon.length_le
      rw [wireBytes_length hmagic, List.length_append, List.length_append] at hlength
      omega
    have happend := Reader.append_of_room hask hroom hsize
    have hnext : ((r.askLength P).append P c).block.Buffers (bs ++ c) := happend ▸ hask.opFbAppend hroom hsize
    obtain ⟨b, hempty, hfetch⟩ := ih (fun c' hc' => hne c' (List.mem_cons_of_mem c hc')) hnext
      (by rw [happend]) hbytes (Reader.askLength_block P hnext.err ▸ hnext.opGetLength)
    refine ⟨b, hempty, ?_⟩
    rw [List.map_cons, Reader.fetch_bytes_of_not_whole P _ hpart hpending hchunk, hfetch, Reader.afterPage_append,
      Reader.afterPage_askLength]

end

end Sys2Proof.Machine

namespace Sys2Proof.Claims

open Sys2Proof.Machine

/-! ### The statements on the Stream Reader (rules R133, R135, R138) -/

/-- A string that parses as one page of its own length is the bytes of a page with its own checksum. -/
theorem wireBytes_of_parsed {P : Params} {bytes : List Byte} {t : State} (hP : P.Valid)
    (hexec : execWith P .parse (runWith P (.fbAppend bytes) State.reset) = .next t) (ht : t.err = 0)
    (hres : t.res.toNat = bytes.length) :
    ∃ (pg : Page) (s : State), t = loadPage pg s ∧ pg.Consistent ∧ pg.sealed P = pg ∧
      bytes = wireBytes P pg := by
  have ⟨hmagic, _, _, _, _, hsize, _⟩ := hP
  rw [runWith_of_clear P State.buffers_reset.err] at hexec
  obtain ⟨pg, hok, rfl⟩ := loaded_of_execWith_parse (by rfl) hexec ht
  obtain ⟨held, hcon, havail, hsealed⟩ := (parsePage_eq_ok_iff hP).mp hok
  rw [toNat_loadPage_res _ hcon] at hres
  have hroom : ([] : List Byte).length + bytes.length ≤ P.fbSize := by
    rw [State.avail, effect, toNat_opFbAppend_flen P bytes State.reset hsize, appendAccepts] at havail
    change pg.length ≤ 0 + min bytes.length (P.fbSize - 0) - 0 at havail
    rw [List.length_nil]
    omega
  have hbuffers := State.buffers_reset.opFbAppend hroom hsize
  refine ⟨pg, _, rfl, hcon, hsealed, hbuffers.bytes.symm.trans ?_⟩
  rw [List.nil_append, ← hres]
  exact (State.holdsPage_iff hmagic ..).mp held

/-- Settles O54: the string is the bytes of a page, which is whole in the buffer with its last chunk and not before
it. -/
theorem readerReassemblesAChunkedPage : Obligations.ReaderReassemblesAChunkedPage := by
  intro P bytes chunks t hP hexec ht hres hchunks hne
  obtain ⟨pg, s, rfl, hcon, hsealed, hwire⟩ := wireBytes_of_parsed hP hexec ht hres
  obtain ⟨b, hempty, hfetch⟩ := Reader.fetch_chunks (r := Reader.fresh) hP hcon hsealed hne State.buffers_reset rfl
    (hchunks.trans hwire)
  refine ⟨Reader.fresh.afterPage pg b, ?_, rfl, Bool.false_or _, rfl, BitVec.eq_of_toNat_eq hempty.flen,
    hempty.pos, hempty.err⟩
  rw [Reader.getPacket_eq_fetch P _ rfl rfl rfl rfl, hfetch, loadPage_page s hcon]

/-- Settles O55: at exhaustion the reader looks at what is left in its buffer, and a clean end stays. -/
theorem readerEndsCleanlyOrTruncated : Obligations.ReaderEndsCleanlyOrTruncated := by
  intro P r hfailed herr hinput hpending
  have hask : (r.askLength P).block.err = 0 ∧ (r.askLength P).block.flen = r.block.flen ∧
      (r.askLength P).block.pos = r.block.pos := by
    obtain ⟨lenv, res, heq⟩ := opGetLength_cases r.block
    rw [Reader.askLength_block P herr, heq]
    exact ⟨herr, rfl, rfl⟩
  obtain ⟨hclear, hflen, hpos⟩ := hask
  have exhausted : ¬ wholeAt r.block → r.getPacket P [] =
      ((r.askLength P).exhausted.1, (r.askLength P).exhausted.2, []) := fun hpart => by
    rw [Reader.getPacket_eq_fetch P [] hfailed herr hinput hpending]
    exact Reader.fetch_nil_of_not_whole P (mt (whole_askLength_iff P herr).mp hpart)
  refine ⟨fun hempty => ?_, fun hresidual hpart => ?_⟩
  · have hpart : ¬ wholeAt r.block := fun h => by
      have hheader := h.1
      rw [State.avail] at hheader
      omega
    have hend := Reader.exhausted_of_empty (r := r.askLength P) (by rwa [hflen, hpos])
    refine ⟨{ r.askLength P with endOfInput := true }, ?_, rfl, fun src => ?_⟩
    · rw [exhausted hpart, hend]
    · exact Reader.getPacket_of_endOfInput P src hfailed hclear rfl
  · have hend := Reader.exhausted_of_residual (r := r.askLength P) (by rwa [hflen, hpos])
    refine ⟨{ r.askLength P with failed := true }, ?_, rfl⟩
    rw [exhausted hpart, hend]

end Sys2Proof.Claims
end

section
/-!
The Stream Writer (rules R140 to R150): what a seal does where the sink takes the page and where it fails, the string
that the sink is given, and a pass of `write`.
-/

namespace Sys2Proof.Machine

/-! ### A string read from the frame buffer, and its parts (rule R36) -/

section
variable (s : State) {a i k n : Nat}

theorem fbBytes_getElem? (h : i < n) : (s.fbBytes a n)[i]? = some (s.fbByte (a + i)) := by
  rw [State.fbBytes, readBytes_getElem?, if_pos h, State.fbByte]

theorem fbBytes_drop (h : i ≤ n) : (s.fbBytes a n).drop i = s.fbBytes (a + i) (n - i) := by
  obtain ⟨r, rfl⟩ := Nat.exists_eq_add_of_le h
  rw [State.fbBytes, readBytes_append, List.drop_left' (readBytes_length ..), Nat.add_sub_cancel_left, State.fbBytes]

theorem fbBytes_drop_take (h : i + k ≤ n) : ((s.fbBytes a n).drop i).take k = s.fbBytes (a + i) k := by
  obtain ⟨r, rfl⟩ := Nat.exists_eq_add_of_le h
  rw [fbBytes_drop s (by omega), show i + k + r - i = k + r by omega, State.fbBytes, readBytes_append,
    List.take_left' (readBytes_length ..), State.fbBytes]

end

/-! ### The block of a seal up to the sink (rule R144) -/

section
variable {σ : Type} {P : Params} {w : Writer σ} {table : List Byte}

/-- The block with the header that a seal writes and an empty frame buffer (rule R144). -/
def Writer.headed (g : Word64) (t : PageType) (w : Writer σ) : State :=
  opFbReset { w.block with pageType := t, granule := g, streamId := w.streamId, packetIndex := w.packetIndex }

theorem writeReg_type_typeBits (t : PageType) (s : State) :
    writeReg .type ((typeBits t).setWidth 64) s = { s with pageType := t } :=
  writeReg_type_of_some (by cases t <;> rfl) s

theorem Writer.prepared_eq_sealPage (P : Params) (g : Word64) (t : PageType) (herr : w.block.err = 0) :
    w.prepared P g t = sealPage P (w.headed g t) := by
  have word : ∀ x : Word32, (x.setWidth 64).setWidth 32 = x := fun x => by
    rw [BitVec.setWidth_setWidth_of_le _ (by decide), BitVec.setWidth_eq]
  simp only [Writer.prepared, writeReg_type_typeBits]
  simp only [writeReg, word]
  rw [runWith_of_clear P (by exact herr)]
  rfl

/-- A payload that has a table is a page that fits in an empty frame buffer, so SEAL emits it. -/
theorem Writer.prepared_eq_emitPage (hP : P.Valid) (g : Word64) (t : PageType) (herr : w.block.err = 0)
    (htable : lace w.block.dlen.toNat = some table) :
    w.prepared P g t = emitPage P (sealTable table (w.headed g t)).page (sealTable table (w.headed g t)) := by
  have ⟨_, _, _, _, hpage, _⟩ := hP
  have hinv : (sealTable table (w.headed g t)).PageInvariant := sealTable_pageInvariant htable
  have hlength := (State.page_consistent hinv).length_le
  have hroom : (sealTable table (w.headed g t)).flen.toNat + (sealTable table (w.headed g t)).page.length ≤
      P.fbSize := by
    change 0 + _ ≤ _
    omega
  rw [Writer.prepared_eq_sealPage P g t herr, sealPage_eq (s := w.headed g t) herr htable, opSerialize,
    serializeCheck_ok hinv (by rwa [← State.page_length]), checked_ok]

/-- The page that a seal gives to the sink, with its checksum (rule R144). -/
def Writer.sealedPage (P : Params) (g : Word64) (t : PageType) (table : List Byte) (w : Writer σ) : Page :=
  Page.sealed P
    { pageType := t, granule := g, streamId := w.streamId, packetIndex := w.packetIndex
      checksum := w.block.checksum, table := table, payload := w.block.payload }

/-- What the writer finds in its block before it calls the sink: ERR 0, the page in the frame buffer and nothing else
there, and the payload as it was (rules R113, R144). -/
structure Writer.Prepared (P : Params) (w : Writer σ) (pg : Page) (b : State) : Prop where
  err : b.err = 0
  flen : b.flen.toNat = pg.length
  held : b.HoldsPage P 0 pg
  dlen : b.dlen = w.block.dlen
  data : b.data = w.block.data

theorem Writer.prepared_spec (hP : P.Valid) (g : Word64) (t : PageType) (herr : w.block.err = 0)
    (htable : lace w.block.dlen.toNat = some table) :
    Writer.Prepared P w (w.sealedPage P g t table) (w.prepared P g t) := by
  have ⟨hmagic, _, _, _, hpage, hsize, _⟩ := hP
  have hinv : (sealTable table (w.headed g t)).PageInvariant := sealTable_pageInvariant htable
  have hlength := (State.page_consistent hinv).length_le
  have hloaded : (sealTable table (w.headed g t)).page.sealed P = w.sealedPage P g t table := by
    rw [State.page, sealTable, loadTable_table (lace_length_le htable)]
    rfl
  rw [Writer.prepared_eq_emitPage hP g t herr htable, ← hloaded]
  refine ⟨herr, ?_, emitPage_holdsPage hmagic _ (sealTable table (w.headed g t)), rfl, rfl⟩
  have hempty : (sealTable table (w.headed g t)).flen.toNat = 0 := rfl
  rw [toNat_emitPage_flen hsize (by omega), hempty, Nat.zero_add, Page.sealed_length]

/-! ### A seal, one rule per answer of the sink (rules R144, R146) -/

/-- The writer after a seal that the sink took, with the block `b` that the seal prepared. -/
def Writer.afterSeal (P : Params) (b : State) (w : Writer σ) : Writer σ :=
  { w with
    block := opFbReset (opClear b)
    packetIndex := w.packetIndex + 1
    bytesWritten := w.bytesWritten +
      (match P.bytesWrittenCounts with
        | .payload => w.block.dlen.toNat
        | .serialized => b.flen.toNat)
    firstSealed := true
    eosMarked := false
    accepted := w.accepted ++ [b.fbBytes 0 b.flen.toNat]
    sinkWrites := w.sinkWrites + 1 }

section
variable {sink : SinkAnswers} {g : Word64} {t : PageType} {b : State} (hindex : w.packetIndex ≠ 0xFFFFFFFF#32)
  (hprepared : w.prepared P g t = b) (hclear : b.err = 0)
include hindex hprepared hclear

theorem Writer.seal_of_sink_takes (hsink : sink w.sinkWrites = true) :
    w.seal P sink g t = (.done b.flen.toNat, w.afterSeal P b) := by
  simp only [Writer.seal, hprepared]
  rw [if_neg hindex, if_neg (not_not_intro hclear), if_pos hsink, runWith_of_clear P hclear,
    runWith_of_clear P (s := effect P .clear b) hclear, State.fbBytes_length]
  rfl

theorem Writer.seal_of_sink_fails (hsink : sink w.sinkWrites = false) :
    w.seal P sink g t = (.failed 5, { w with block := opFbReset b, sinkWrites := w.sinkWrites + 1 }) := by
  simp only [Writer.seal, hprepared]
  rw [if_neg hindex, if_neg (not_not_intro hclear), if_neg (Bool.eq_false_iff.mp hsink), runWith_of_clear P hclear]
  rfl

end

/-! ### A call of `write` that one pass serves (rules R83, R141) -/

theorem writeAccepts_of_fits {s : State} {bytes : List Byte} (h : s.dlen.toNat + bytes.length ≤ 65025) :
    writeAccepts bytes s = bytes.length := by
  rw [writeAccepts]
  omega

/-- A string written to an empty page is its payload. -/
theorem opWrite_payload {s : State} {bytes : List Byte} (hempty : s.dlen = 0) (hfits : bytes.length ≤ 65025) :
    (opWrite bytes s).payload = bytes := by
  have haccepts : writeAccepts bytes s = bytes.length :=
    writeAccepts_of_fits (by rw [hempty]; exact (Nat.zero_add _).trans_le hfits)
  rw [State.payload, toNat_opWrite_dlen, opWrite_data, haccepts, List.take_length, hempty]
  exact (Nat.zero_add bytes.length).symm ▸ readBytes_writeEntries_same .data s.data 0 bytes

theorem Writer.writeLoop_nil (sink : SinkAnswers) (onSeal : Option (OnSeal σ)) (total n : Nat) :
    w.writeLoop P sink onSeal total n [] = (.done total, w) := by
  cases n with
  | zero => rfl
  | succ n => exact if_pos rfl

/-- The writer after its block took a string by WRITE. -/
def Writer.withPayload (bytes : List Byte) (w : Writer σ) : Writer σ := { w with block := opWrite bytes w.block }

section
variable {bytes : List Byte} (P : Params) (sink : SinkAnswers) (herr : w.block.err = 0) (hne : bytes ≠ [])
include herr hne

/-- A string that leaves room in the page is accepted whole, and nothing is sealed. -/
theorem Writer.write_of_room (onSeal : Option (OnSeal σ)) (hroom : w.block.dlen.toNat + bytes.length < 65025) :
    w.write P sink onSeal bytes = (.done bytes.length, w.withPayload bytes) := by
  have haccepts := writeAccepts_of_fits hroom.le
  have hclear : (opWrite bytes w.block).err = 0 := herr
  simp only [Writer.write, Writer.writeLoop, runWith_of_clear P herr, effect, toNat_opWrite_res, toNat_opWrite_dlen,
    haccepts, List.drop_length]
  rw [if_neg hne, if_neg (not_not_intro hclear), if_neg (Nat.ne_of_lt hroom), Writer.writeLoop_nil]
  rfl

/-- A string that fills the page is accepted whole, and the page is sealed by itself. -/
theorem Writer.write_of_full {n : Nat} {w' : Writer σ} (hfull : w.block.dlen.toNat + bytes.length = 65025)
    (hseal : (w.withPayload bytes).seal P sink (w.withPayload bytes).granulePosition
      ((w.withPayload bytes).pickType (w.withPayload bytes).eosMarked) = (.done n, w')) :
    w.write P sink none bytes = (.done bytes.length, w') := by
  have haccepts := writeAccepts_of_fits hfull.le
  have hclear : (opWrite bytes w.block).err = 0 := herr
  simp only [Writer.write, Writer.writeLoop, runWith_of_clear P herr, effect, toNat_opWrite_res, toNat_opWrite_dlen,
    haccepts, List.drop_length]
  rw [if_neg hne, if_neg (not_not_intro hclear), if_pos hfull]
  simp only [Writer.autoGranule, Writer.withPayload] at hseal ⊢
  rw [hseal]
  exact Writer.writeLoop_nil ..

end

end

end Sys2Proof.Machine

namespace Sys2Proof.Claims

open Sys2Proof.Machine

/-! ### The string that the sink is given (rules R61, R144) -/

/-- The string read as the fields of the wire format gives the page, and its checksum field is that of the string. -/
structure WireString (P : Params) (pg : Page) (bytes : List Byte) : Prop where
  length : bytes.length = pg.length
  magic : bytes.take 4 = P.magic
  version : bytes[4]? = some 0
  typeFlags : bytes[5]? = some (typeCode P pg.pageType)
  granule : fieldValue P ((bytes.drop 6).take 8) = pg.granule.toNat
  streamId : fieldValue P ((bytes.drop 14).take 4) = pg.streamId.toNat
  packetIndex : fieldValue P ((bytes.drop 18).take 4) = pg.packetIndex.toNat
  checksum : fieldValue P ((bytes.drop 22).take 4) = (crc32 P (zeroChecksum bytes)).toNat
  segCount : bytes[26]? = some (BitVec.ofNat 8 pg.table.length)
  body : bytes.drop 27 = pg.table ++ pg.payload

/-- The string of a page with its own checksum in the frame buffer. -/
theorem wireString_of_holdsPage {P : Params} {s : State} {pg : Page} (hmagic : P.magic.length = 4)
    (held : s.HoldsPage P 0 pg) (hsealed : pg.sealed P = pg) : WireString P pg (s.fbBytes 0 pg.length) := by
  have hheader := pg.le_length
  have field : ∀ {i k n : Nat} {v : BitVec n}, i + k ≤ 27 → n = 8 * (n / 8) →
      s.fbBytes (0 + i) k = fldBytes P v →
      fieldValue P (((s.fbBytes 0 pg.length).drop i).take k) = v.toNat := fun hi hn hv => by
    rw [fbBytes_drop_take s (by omega), hv, fieldValue_fldBytes P _ hn]
  have byte : ∀ {i : Nat} {b : Byte}, i < 27 → s.fbByte (0 + i) = b → (s.fbBytes 0 pg.length)[i]? = some b :=
    fun hi hb => by rw [fbBytes_getElem? s (by omega), hb]
  refine ⟨s.fbBytes_length .., ?_, byte (by decide) held.version, byte (by decide) held.typeFlags,
    field (by decide) rfl held.granule, field (by decide) rfl held.streamId, field (by decide) rfl held.packetIndex, ?_,
    byte (by decide) held.segCount, ?_⟩
  · exact (fbBytes_drop_take s (i := 0) (by omega)).trans held.magic
  · have hself := (Page.sealed_eq_self_iff P pg).mp hsealed
    rw [field (by decide) rfl held.checksum, (State.holdsPage_iff hmagic s 0 pg).mp held,
      zeroChecksum_wireBytes hmagic, ← hself]
  · have hsize : pg.length - 27 = pg.table.length + pg.payload.length := by
      rw [Page.length]
      omega
    rw [fbBytes_drop s hheader, hsize, State.fbBytes, readBytes_append]
    exact congrArg₂ (· ++ ·) held.table held.payload

/-- What the sink is given by a seal. -/
theorem wireString_of_prepared {P : Params} {w : Writer Unit} (hP : P.Valid) (g : Word64) (t : PageType)
    {table : List Byte} (herr : w.block.err = 0) (htable : lace w.block.dlen.toNat = some table) :
    WireString P (w.sealedPage P g t table) ((w.prepared P g t).fbBytes 0 (w.prepared P g t).flen.toNat) := by
  have hprepared := Writer.prepared_spec hP g t herr htable
  rw [hprepared.flen]
  exact wireString_of_holdsPage hP.1 hprepared.held rfl

section
variable {P : Params} {pg : Page} {bytes : List Byte}

theorem WireString.table_eq (h : WireString P pg bytes) : (bytes.drop 27).take pg.table.length = pg.table := by
  rw [h.body, List.take_left]

theorem WireString.payload_eq (h : WireString P pg bytes) : bytes.drop (27 + pg.table.length) = pg.payload := by
  rw [← List.drop_drop, h.body, List.drop_left]

end

/-- From `w` to `w'` the sink has taken one more page `pg`, as the string `p`, and the writer holds an empty page. -/
structure EmitsPage (P : Params) (w w' : Writer Unit) (pg : Page) (p : List Byte) : Prop where
  string : WireString P pg p
  accepted : w'.accepted = w.accepted ++ [p]
  packetIndex : w'.packetIndex = w.packetIndex + 1
  firstSealed : w'.firstSealed = true
  eosMarked : w'.eosMarked = false
  err : w'.block.err = 0
  dlen : w'.block.dlen = 0

/-- A string written to an empty page, and the seal of that page where the sink takes it. -/
theorem seal_withPayload {P : Params} {w : Writer Unit} {sink : SinkAnswers} {bytes table : List Byte} (hP : P.Valid)
    (g : Word64) (t : PageType) (hindex : w.packetIndex ≠ 0xFFFFFFFF#32) (herr : w.block.err = 0)
    (hempty : w.block.dlen = 0) (htable : lace bytes.length = some table) (hsink : sink w.sinkWrites = true) :
    ∃ w' pg p, EmitsPage P w w' pg p ∧ pg.pageType = t ∧ pg.table = table ∧ pg.payload = bytes ∧
      (w.withPayload bytes).seal P sink g t = (.done (27 + table.length + bytes.length), w') := by
  have hfits : bytes.length ≤ 65025 := by
    rcases lace_cases htable with ⟨hle, -⟩ | ⟨hfull, -⟩ <;> omega
  have hpayload : (w.withPayload bytes).block.payload = bytes := opWrite_payload hempty hfits
  have hdlen : (w.withPayload bytes).block.dlen.toNat = bytes.length := by
    rw [← State.payload_length, hpayload]
  rw [← hdlen] at htable
  have hprepared := Writer.prepared_spec (w := w.withPayload bytes) hP g t herr htable
  have hstring := wireString_of_prepared (w := w.withPayload bytes) hP g t herr htable
  generalize hb : (w.withPayload bytes).prepared P g t = b at hprepared hstring
  have hlength : b.flen.toNat = 27 + table.length + bytes.length := by
    rw [hprepared.flen, ← hdlen, ← State.payload_length]
    rfl
  refine ⟨(w.withPayload bytes).afterSeal P b, _, _, ⟨hstring, rfl, rfl, rfl, rfl, hprepared.err, rfl⟩, rfl, rfl,
    hpayload, ?_⟩
  rw [← hlength]
  exact Writer.seal_of_sink_takes hindex hb hprepared.err hsink

/-! ### The statements on the Stream Writer (rules R141 to R150) -/

/-- Settles O56: SEAL cannot fail on a payload within the capacity, and what the sink is given is the page in the
frame buffer. -/
theorem sealCountsOnceOrKeepsThePage : Obligations.SealCountsOnceOrKeepsThePage := by
  intro P w sink g t hP hindex herr hdlen
  obtain ⟨table, htable⟩ := lace_isSome hdlen
  have hprepared := Writer.prepared_spec hP g t herr htable
  have hstring := wireString_of_prepared hP g t herr htable
  generalize hb : w.prepared P g t = b at hprepared hstring
  refine ⟨fun hsink => ?_, fun hsink => ⟨_, Writer.seal_of_sink_fails hindex hb hprepared.err hsink, hprepared.dlen,
    hprepared.data, rfl, rfl, rfl, rfl, rfl, hprepared.err⟩⟩
  have hlength : b.flen.toNat = 27 + min 255 (w.block.dlen.toNat / 255 + 1) + w.block.dlen.toNat := by
    rw [hprepared.flen, ← lace_length htable, ← State.payload_length]
    rfl
  exact ⟨_, _, Writer.seal_of_sink_takes hindex hb hprepared.err hsink, hlength, rfl, rfl, rfl, rfl, rfl, rfl, rfl,
    rfl, hprepared.err, rfl, _, State.fbBytes_length .., rfl, hstring.magic, hstring.version, hstring.typeFlags,
    hstring.granule, hstring.streamId, hstring.packetIndex, hstring.checksum, table, htable, hstring.segCount,
    hstring.body⟩

/-- Settles O57: the type depends on `first_sealed` and what is asked; the reset's CLEAR runs from ERR 0. -/
theorem writerFirstPageBeginsTheStream : Obligations.WriterFirstPageBeginsTheStream := by
  intro w eos
  refine ⟨fun hfirst => ?_, fun hfirst => ?_, rfl, rfl, rfl, rfl, rfl, rfl, rfl, fun herr => ?_⟩
  · simp [Writer.pickType, hfirst]
  · simp [Writer.pickType, hfirst]
  · rw [Writer.restart, run_of_clear herr]
    exact ⟨rfl, rfl⟩

/-- Settles O58: the first write fills the page, which is sealed by itself; the second leaves room in its page, which
is sealed when the caller asks. -/
theorem fullPageIsSealedByItself : Obligations.FullPageIsSealedByItself := by
  intro P bytes b sid g eos hP hbytes
  have hfirst : lace bytes.length = some (List.replicate 255 255#8) := by
    rw [hbytes, lace, if_neg (by decide), if_pos rfl]
  have hsecond : lace [b].length = some [1#8] := by
    rw [List.length_singleton, lace, if_pos (by decide)]
    rfl
  have hfull : (Writer.fresh sid () : Writer Unit).block.dlen.toNat + bytes.length = 65025 := by
    rw [hbytes, show (Writer.fresh sid () : Writer Unit).block.dlen.toNat = 0 from rfl]
  obtain ⟨w1, pg1, p, hemit1, htype1, htable1, hpayload1, hseal1⟩ :=
    seal_withPayload (w := Writer.fresh sid ()) (sink := fun _ => true) hP 0 .beginOfStream
      (show (0 : Word32) ≠ 0xFFFFFFFF#32 by decide) rfl rfl hfirst rfl
  have hwrite1 := Writer.write_of_full P (fun _ => true) rfl (List.ne_nil_of_length_pos (by omega)) hfull hseal1
  rw [hbytes] at hwrite1
  have hindex1 : w1.packetIndex = 1 := hemit1.packetIndex
  have hpick : (w1.withPayload [b]).pickType (eos || (w1.withPayload [b]).eosMarked) =
      if eos then .endOfStream else .continuation := by
    simp [Writer.pickType, Writer.withPayload, hemit1.firstSealed, hemit1.eosMarked]
  obtain ⟨w3, pg2, q, hemit2, htype2, htable2, hpayload2, hseal2⟩ :=
    seal_withPayload (sink := fun _ => true) hP g (if eos then .endOfStream else .continuation)
      (by rw [hindex1]; decide) hemit1.err hemit1.dlen hsecond rfl
  rw [← hpick] at hseal2
  have hwrite2 := Writer.write_of_room P (fun _ => true) hemit1.err (List.cons_ne_nil b []) none
    (by rw [hemit1.dlen, List.length_singleton]; decide)
  refine ⟨w1, w1.withPayload [b], w3, p, q, hwrite1, hwrite2, hseal2, hemit1.accepted, hemit1.accepted, ?_, ?_, ?_,
    ?_, ?_, ?_, ?_, ?_, ?_⟩
  · rw [hemit2.accepted, hemit1.accepted]
    rfl
  · rw [hemit1.string.length, Page.length, htable1, hpayload1, hbytes, List.length_replicate]
  · rw [hemit1.string.typeFlags, htype1]
    rfl
  · have htable := hemit1.string.table_eq
    rwa [htable1, List.length_replicate] at htable
  · rw [← hpayload1, ← hemit1.string.payload_eq, htable1, List.length_replicate]
  · rw [hemit2.string.length, Page.length, htable2, hpayload2]
    rfl
  · rw [← hpayload2, ← hemit2.string.payload_eq, htable2, List.length_singleton]
  · rw [hemit2.string.typeFlags, htype2]
    cases eos <;> rfl
  · rw [hemit2.packetIndex, hindex1]
    rfl

end Sys2Proof.Claims
end

section
/-!
Errors (rules R160 to R167): what an operation and an access of the host can do to ERR, which operations the gate holds
back while ERR is not 0, and that the accesses which it does not hold back neither read nor write ERR.
-/

namespace Sys2Proof.Machine

/-! ### What can become of ERR (rules R160 to R164, R167) -/

/-- Everything that can become of ERR when `s` turns into another state; raising touches nothing else. -/
inductive ErrChange (s : State) : State → Prop where
  | kept {t : State} (h : t.err = s.err) : ErrChange s t
  | cleared {t : State} (h : t.err = 0) : ErrChange s t
  | raised {k : ErrKind} (h : k.OfBlock) : ErrChange s (raise k s)

/-- A checked operation raises what its check names, or commits. -/
theorem errChange_checked {α : Type} {check : Except ErrKind α} {commit : α → State → State} {s : State}
    (hkind : ∀ {k}, check = .error k → k.OfBlock) (hcommit : ∀ a, (commit a s).err = s.err) :
    ErrChange s (checked check commit s) := by
  rcases checked_cases check commit s with ⟨k, hk, heq⟩ | ⟨a, -, heq⟩
  · exact heq ▸ .raised (hkind hk)
  · exact heq ▸ .kept (hcommit a)

theorem errChange_effect (P : Params) (i : Instr) (s : State) : ErrChange s (effect P i s) := by
  have hcapacity : ErrKind.capacityExceeded.OfBlock := ⟨by decide, by decide⟩
  have hinvariant : ErrKind.pageInvariant.OfBlock := ⟨by decide, by decide⟩
  have htruncated : ErrKind.truncated.OfBlock := ⟨by decide, by decide⟩
  cases i with
  | lace => exact errChange_checked (fun hk => laceCheck_error hk ▸ hcapacity) fun _ => rfl
  | getSegments => exact errChange_checked (fun hk => segmentsCheck_error hk ▸ hinvariant) fun _ => rfl
  | getChecksum | fillChecksum => exact errChange_checked (fun hk => wholePage_error hk ▸ htruncated) fun _ => rfl
  | parse =>
    refine errChange_checked (fun hk => ?_) fun _ => rfl
    rcases parsePage_error hk with rfl | rfl | rfl <;> exact ⟨by decide, by decide⟩
  | serialize =>
    refine errChange_checked (fun hk => ?_) fun _ => rfl
    rcases serializeCheck_error hk with rfl | rfl
    · exact hinvariant
    · exact hcapacity
  | getLength =>
    obtain ⟨b, r, heq⟩ := opGetLength_cases s
    refine .kept ?_
    rw [effect, heq, setLenv_err]
  | clrErr | reset => exact .cleared rfl
  | new | clear | write | fbReset | fbAppend | fbCompact => exact .kept rfl

theorem errChange_exec {i : Instr} {s t : State} (h : exec i s = .next t) : ErrChange s t := by
  rcases exec_cases i s with heffect | ⟨-, hsame⟩
  · cases heffect.symm.trans h
    exact errChange_effect _ i s
  · cases hsame.symm.trans h
    exact .kept rfl

/-- Where ERR is 0 before and not after, it was neither kept nor cleared: nothing but ERR changed (rule R164). -/
theorem ErrChange.eq_of_err_ne_zero {s t : State} (h : ErrChange s t) (hs : s.err = 0) (ht : t.err ≠ 0) :
    t = { s with err := t.err } := by
  cases h with
  | kept herr => exact absurd (herr.trans hs) ht
  | cleared herr => exact absurd herr ht
  | raised => rfl

theorem ErrChange.blockCode {s t : State} (h : ErrChange s t) (hs : BlockCode s.err) : BlockCode t.err := by
  cases h with
  | kept herr => exact herr ▸ hs
  | cleared herr => exact herr ▸ blockCode_zero
  | raised hk => exact hk.blockCode

/-! ### What does not look at ERR (rules R35, R165) -/

/-- An update that neither reads nor writes ERR. -/
def IgnoresErr (f : State → State) : Prop := ∀ (s : State) (e : BitVec 4),
  f { s with err := e } = { f s with err := e }

theorem IgnoresErr.err_eq {f : State → State} (h : IgnoresErr f) (s : State) : (f s).err = s.err := by
  have hself : f s = { f s with err := s.err } := h s s.err
  rw [hself]

theorem ignoresErr_writeReg (r : Reg) (v : Word64) : IgnoresErr (writeReg r v) := by
  intro s e
  cases r with
  | type =>
    cases htype : typeOfBits (v.setWidth 2) with
    | none => simp only [writeReg_type_of_none htype]
    | some t => simp only [writeReg_type_of_some htype]
  | pos =>
    by_cases hle : (v.setWidth 32).toNat ≤ s.flen.toNat
    · rw [writeReg_pos_of_le hle, writeReg_pos_of_le (s := { s with err := e }) hle]
    · rw [writeReg_pos_of_not_le hle, writeReg_pos_of_not_le (s := { s with err := e }) hle]
  | cmd | arg | res | err | status | version | granule | streamId | packetIndex | checksum | nseg | dlen | flen
    | nsub => rfl

theorem ignoresErr_writeSegtab (i : Nat) (b : Byte) : IgnoresErr (writeSegtab i b) := fun _ _ => rfl

/-- The one register whose read depends on ERR is ERR. -/
theorem ignoresErr_readReg {r : Reg} (h : r ≠ .err) : IgnoresErr (readReg r) := by
  intro s e
  cases r with
  | err => exact absurd rfl h
  | cmd | arg | res | status | version | type | granule | streamId | packetIndex | checksum | nseg | dlen | flen
    | pos | nsub => rfl

/-- What is served by an update that ignores ERR is served as with ERR = 0, and keeps ERR (rule R165). -/
theorem IgnoresErr.served_alike {f : State → State} {serve : State → Result} (hf : IgnoresErr f)
    (hserve : ∀ s, serve s = .next (f s)) (s : State) :
    ∃ t, serve { s with err := 0 } = .next t ∧ serve s = .next { t with err := s.err } :=
  ⟨_, hserve _, (hserve s).trans (congrArg _ (hf { s with err := 0 } s.err))⟩

theorem readCell_served_alike {P : Params} {sp : Space} {i : Nat} (h : i < sp.size P) (s : State) :
    ∃ t, readCell P sp i { s with err := 0 } = .next t ∧ readCell P sp i s = .next { t with err := s.err } := by
  have hcells : validCells sp { s with err := 0 } = validCells sp s := by cases sp <;> rfl
  have hdata : cellData sp i { s with err := 0 } = cellData sp i s := by cases sp <;> rfl
  by_cases hvalid : i < validCells sp s
  · refine ⟨_, readCell_valid h (hcells ▸ hvalid), ?_⟩
    rw [readCell_valid h hvalid, hdata]
    rfl
  · exact ⟨_, readCell_invalid h (hcells ▸ hvalid), readCell_invalid h hvalid⟩

/-! ### Every access of the host (rules R160, R161, R165) -/

theorem Served.errChange {s t : State} (h : Served s t) : ErrChange s t := by
  cases h with
  | operation _ hexec => exact errChange_exec hexec
  | illegal => exact .raised ⟨by decide, by decide⟩
  | ignored => exact .kept rfl
  | register r v => exact .kept ((ignoresErr_writeReg r v).err_eq s)
  | cell _ v => exact .kept rfl
  | answered d n => exact .kept rfl

/-- While ERR is not 0 the gate holds back every operation but CLR_ERR and RESET (rule R165). -/
theorem exec_of_error {i : Instr} {s : State} (herr : s.err ≠ 0) (hclr : i ≠ .clrErr) (hreset : i ≠ .reset) :
    exec i s = .next s := by
  cases i with
  | clrErr => exact absurd rfl hclr
  | reset => exact absurd rfl hreset
  | new | clear | write | getSegments | lace | getChecksum | fillChecksum | getLength | parse | serialize | fbReset
    | fbAppend | fbCompact => exact gated_of_error herr

theorem opcode_of_decode_transaction {code : Byte} {w : List Byte} {i : Instr}
    (h : decode (transaction code w) = .ok i) : code = opcode i :=
  List.head_eq_of_cons_eq (encode_of_decode h)

/-- A command is ignored while ERR is not 0, unless its code is that of CLR_ERR or RESET (rules R67, R165). -/
theorem issue_of_err_ne_zero {code : Byte} {s : State} (herr : s.err ≠ 0) (hclr : code ≠ opcode .clrErr)
    (hreset : code ≠ opcode .reset) (w : List Byte) : issue exec code w s = .next s := by
  cases hdec : decode (transaction code w) with
  | ok i =>
    rw [opcode_of_decode_transaction hdec] at hclr hreset
    rw [issue_of_ok hdec]
    exact exec_of_error herr (fun h => hclr (congrArg opcode h)) fun h => hreset (congrArg opcode h)
  | error e =>
    rw [issue_of_error hdec]
    exact gated_of_error herr

end Sys2Proof.Machine

namespace Sys2Proof.Claims

open Sys2Proof.Machine

/-! ### The statements on errors (rules R160 to R167) -/

/-- The values that the statements allow ERR are those of the machine's invariant (rule R160). -/
theorem errOk_iff_blockCode (e : BitVec 4) : errOk e ↔ BlockCode e := by
  unfold errOk BlockCode
  revert e
  decide

/-- Settles O28: raising is all that takes ERR from 0 to another value. -/
theorem raisingChangesOnlyErr : Obligations.RaisingChangesOnlyErr := fun _ _ _ herr hexec ht =>
  (errChange_exec hexec).eq_of_err_ne_zero herr ht

/-- Settles O30: a served access keeps ERR, clears it, or raises a kind of the block. -/
theorem errHoldsOnlyTheBlocksCodes : Obligations.ErrHoldsOnlyTheBlocksCodes := by
  intro a s t hs hperform
  rw [errOk_iff_blockCode] at hs ⊢
  exact (served_of_perform hperform).errChange.blockCode hs

/-- Settles O31: the gate and the illegal codes ignore a command; every other access is served by an update that does
not look at ERR, but for the read of ERR. -/
theorem stickyErrorIgnoresCommands : Obligations.StickyErrorIgnoresCommands := fun s herr =>
  ⟨fun _ => exec_of_error herr,
    fun _ w hclr hreset => issue_of_err_ne_zero herr hclr hreset w,
    fun r v hr => (ignoresErr_writeReg r v).served_alike (writeNamed_of_ne_cmd hr exec v) s,
    fun i b hi => (ignoresErr_writeSegtab i b).served_alike (writeCell_segtab _ hi b) s,
    fun _ hr => (ignoresErr_readReg hr).served_alike (fun _ => rfl) s,
    fun _ _ hi => readCell_served_alike hi s,
    rfl⟩

/-- Settles O33: CLR_ERR is not gated, and its effect is the return from an error. -/
theorem clrErrClearsOnlyErr : Obligations.ClrErrClearsOnlyErr := ⟨decode_encode .clrErr, fun _ => rfl⟩

end Sys2Proof.Claims
end

section
/-!
The statement of spec/70_reset_and_hazards.md on RESET itself (rule R181). Its derived sentence, RESET as NEW, FB_RESET
and CLR_ERR, is settled among the claims on the state.
-/

namespace Sys2Proof.Claims

open Sys2Proof.Machine

/-- Settles O34: 0x0F is the code RESET encodes to; RESET is not gated, so it completes with its effect whatever ERR
holds, and that effect writes the registers alone. -/
theorem resetReturnsRegistersToZero : Obligations.ResetReturnsRegistersToZero :=
  ⟨decode_encode .reset, fun s => show execReset s = .next (opReset s) from rfl⟩

end Sys2Proof.Claims
end
